-- ==== Sys2Proof/Word.lean ====
section
/-! DEFINITION. Bytes, Words, Blocks and window addresses (00_scope.md section 6, rules R5 and R6). -/

namespace Sys2Proof

/-- A Byte: 8 bits, bit 7 the most significant (00_scope.md 6.1). -/
abbrev Byte := BitVec 8

/-- A Word: "4 contiguous bytes", a tuple with the lowest index first, never read as an integer
(00_scope.md R5, 20_memory.md R71.3). -/
abbrev Word := Vector Byte 4

/-- A Block: 16 bytes, byte `r + 4·c` being row `r`, column `c` (00_scope.md R6). -/
abbrev Block := Vector Byte 16

/-- A round-key schedule, or the part of one made so far: Words `w[0], w[1], …` in order (00_scope.md R7). -/
abbrev Schedule := List Word

/-- A host address: 9 bits, `0x000` to `0x1FF` (20_memory.md R60, R81; log 13). -/
abbrev Addr := BitVec 9

/-- `n` bytes `0x00`. -/
abbrev zeroBytes (n : Nat) : Vector Byte n := Vector.replicate n 0

end Sys2Proof
end

