-- ==== Sys2Proof/Syntax.lean ====
section
/-! DEFINITION. The commands: one constructor per row of spec/opcode_table.json (30_encoding.md R91). -/

namespace Sys2Proof

/-- A command byte that decodes (30_encoding.md R91). -/
inductive Instr where
  /-- `NOP`, 44_mode_controller.md R231. -/
  | nop
  /-- `KEYEXP.128`, 42_key_expansion.md R162. -/
  | keyexp128
  /-- `KEYEXP.192`, 42_key_expansion.md R163. -/
  | keyexp192
  /-- `KEYEXP.256`, 42_key_expansion.md R164. -/
  | keyexp256
  /-- `LOADIV`, 44_mode_controller.md R233. -/
  | loadiv
  /-- `LOADNONCE`, 44_mode_controller.md R234. -/
  | loadnonce
  /-- `ECB.ENC`, 44_mode_controller.md R237. -/
  | ecbEnc
  /-- `CBC.ENC`, 44_mode_controller.md R239. -/
  | cbcEnc
  /-- `CTR.BLK`, 44_mode_controller.md R241. `dir` is the ignored direction bit `arg[2]` (R245): it is kept because
  `ERRINFO` records the byte written (log 9). -/
  | ctrBlk (dir : Bool)
  /-- `ECB.DEC`, 44_mode_controller.md R238. -/
  | ecbDec
  /-- `CBC.DEC`, 44_mode_controller.md R240. -/
  | cbcDec
  /-- `CTR.PART n`, 44_mode_controller.md R242: `n` bytes, 1 to 15. -/
  | ctrPart (n : BitVec 4)
  /-- `CLRERR`, 44_mode_controller.md R232. -/
  | clrerr
  deriving DecidableEq, Repr

/-- The seven causes of an error (60_exceptions.md R281). Decoding rejects a byte by one of four:
`opcode`, `keylen`, `mode`, `empty` (30_encoding.md R96). -/
inductive ErrCause where
  /-- `ERR_OPCODE`, 60_exceptions.md R282. -/
  | opcode
  /-- `ERR_KEYLEN`, 60_exceptions.md R283. -/
  | keylen
  /-- `ERR_MODE`, 60_exceptions.md R284. -/
  | mode
  /-- `ERR_NOKEY`, 60_exceptions.md R285. -/
  | nokey
  /-- `ERR_EMPTY`, 60_exceptions.md R286. -/
  | empty
  /-- `ERR_CTROVF`, 60_exceptions.md R287. -/
  | ctrovf
  /-- `ERR_BUSY`, 60_exceptions.md R288. -/
  | busy
  deriving DecidableEq, Repr

end Sys2Proof
end

