-- ==== Sys2Proof/WellFormed.lean ====
section
/-! DEFINITION. Which commands an encoding exists for (30_encoding.md R91, R95). -/

namespace Sys2Proof

/-- A command is well formed if its operand is one the encoding admits: `CTR.PART n` needs `1 ≤ n ≤ 15`
(30_encoding.md R95: "`n = 0` is an empty block and is rejected"). The other commands have no operand to check. -/
def Instr.wf (i : Instr) : Bool :=
  match i with
  | .nop => true
  | .keyexp128 => true
  | .keyexp192 => true
  | .keyexp256 => true
  | .loadiv => true
  | .loadnonce => true
  | .ecbEnc => true
  | .cbcEnc => true
  | .ctrBlk _ => true
  | .ecbDec => true
  | .cbcDec => true
  | .ctrPart n => n != 0
  | .clrerr => true

end Sys2Proof
end

