-- ==== Sys2Proof/Decode.lean ====
section
/-! DEFINITION. Command decode, total on the 256 byte values (30_encoding.md R90 to R100), and the encoder. -/

namespace Sys2Proof

/-- The opcode field, bits 7:4 (30_encoding.md R90). -/
def cmdOp (v : Byte) : BitVec 4 := v.extractLsb' 4 4

/-- The argument field, bits 3:0 (30_encoding.md R90). -/
def cmdArg (v : Byte) : BitVec 4 := v.extractLsb' 0 4

/-- `KEYEXP` by its argument: `arg[3:2]` must be 0, `arg[1:0]` is `klen` (30_encoding.md R92, R93). -/
def decodeKeyexp (arg : BitVec 4) : Except ErrCause Instr :=
  if arg.extractLsb' 2 2 != 0 then .error .opcode
  else
    match (arg.extractLsb' 0 2).toNat with
    | 0 => .ok .keyexp128
    | 1 => .ok .keyexp192
    | 2 => .ok .keyexp256
    | _ => .error .keylen

/-- `BLOCK` by its argument: `arg[3]` must be 0, `arg[1:0]` is the mode, `arg[2]` the direction, ignored in mode 2
(30_encoding.md R92, R94). -/
def decodeBlock (arg : BitVec 4) : Except ErrCause Instr :=
  if arg.getLsbD 3 then .error .opcode
  else
    match (arg.extractLsb' 0 2).toNat, arg.getLsbD 2 with
    | 0, false => .ok .ecbEnc
    | 0, true => .ok .ecbDec
    | 1, false => .ok .cbcEnc
    | 1, true => .ok .cbcDec
    | 2, dir => .ok (.ctrBlk dir)
    | _, _ => .error .mode

/-- The command without argument `i`, whose `arg` must be 0 (30_encoding.md R92). -/
def decodePlain (i : Instr) (arg : BitVec 4) : Except ErrCause Instr :=
  if arg != 0 then .error .opcode else .ok i

/-- `BLOCKP`: `arg` is the byte count, 0 being the empty block (30_encoding.md R95). -/
def decodeBlockp (arg : BitVec 4) : Except ErrCause Instr :=
  if arg == 0 then .error .empty else .ok (.ctrPart arg)

/-- The command a byte stands for, or the error that rejects it: the tests of `Execute` that look at the byte alone, in
their order (30_encoding.md R96, R100). -/
def decode (v : Byte) : Except ErrCause Instr :=
  match (cmdOp v).toNat with
  | 0 => decodePlain .nop (cmdArg v)
  | 1 => decodeKeyexp (cmdArg v)
  | 2 => decodePlain .loadiv (cmdArg v)
  | 3 => decodePlain .loadnonce (cmdArg v)
  | 4 => decodeBlock (cmdArg v)
  | 5 => decodeBlockp (cmdArg v)
  | 6 => decodePlain .clrerr (cmdArg v)
  | _ => .error .opcode

/-- The byte of a command, from the opcode map (30_encoding.md R91). -/
def encode (i : Instr) : Byte :=
  match i with
  | .nop => 0x00
  | .keyexp128 => 0x10
  | .keyexp192 => 0x11
  | .keyexp256 => 0x12
  | .loadiv => 0x20
  | .loadnonce => 0x30
  | .ecbEnc => 0x40
  | .cbcEnc => 0x41
  | .ctrBlk dir => if dir then 0x46 else 0x42
  | .ecbDec => 0x44
  | .cbcDec => 0x45
  | .ctrPart n => (5 : BitVec 4) ++ n
  | .clrerr => 0x60

/-- The command the decoder reads from the low `nbits` bits of `w`, numbered as spec/opcode_table.json numbers them
(bit 0 the least significant bit of the one byte). -/
def decodeTableWord (nbits w : Nat) : Option Instr :=
  match decode (BitVec.ofNat 8 (w % 2 ^ nbits)) with
  | .ok i => some i
  | .error _ => none

end Sys2Proof
end

