-- ==== Sys2Proof/Config.lean ====
section
/-! DEFINITION. The open values of the spec, as constants without a body: nothing can be proved about what they are.
The other open parameters of 92_eei_decisions.md (`BUS`, `busy_steps`, `outside_window`) touch no rule: see logs 13 and 14. -/

namespace Sys2Proof

/-- FREE VALUE (log 4). The `draw` of 20_memory.md R64: the byte a host read of a result region returns while `BUSY = 1`,
one for each draw number. -/
opaque Config.busyReadByte : Nat → Byte

/-- FREE VALUE (log 3). Byte `k` of the 240 bytes that `RK` holds after a reset, one family for each draw number:
the parameter `rk_reset` of 70_reset_and_hazards.md R321, which "may differ per reset". -/
opaque Config.rkResetByte : Nat → Nat → Byte

/-- The 60 Words `rk_reset` of draw number `n` (10_state.md R39), laid out as the window shows them: byte `j` of Word `i`
is byte `4·i + j`. -/
def Config.rkReset (n : Nat) : Vector Word 60 :=
  Vector.ofFn fun i => Vector.ofFn fun j => Config.rkResetByte n (4 * i.val + j.val)

end Sys2Proof
end

