-- ==== Sys2Proof/Machine/State.lean ====
section
/-! DEFINITION. The state of the block (10_state.md), with the two agents' schedule, and the state after reset. -/

namespace Sys2Proof.Machine

/-- The key-length code `KLEN` (00_scope.md R10): a 2-bit field that is "never 3" (10_state.md R32; log 8). -/
inductive KeyLen where
  /-- `KLEN = 0`: 16 key bytes. -/
  | k128
  /-- `KLEN = 1`: 24 key bytes. -/
  | k192
  /-- `KLEN = 2`: 32 key bytes. -/
  | k256
  deriving DecidableEq, Repr

/-- What the block is doing (10_state.md R29). -/
inductive Phase where
  /-- No operation: the block has no step. -/
  | idle
  /-- Key expansion in progress. -/
  | kx
  /-- Forward cipher in progress. -/
  | enc
  /-- Inverse cipher in progress. -/
  | dec
  deriving DecidableEq, Repr

/-- `OPMODE`, the mode of the block command in flight (10_state.md R30). -/
inductive OpMode where
  /-- Code 0. -/
  | ecb
  /-- Code 1. -/
  | cbc
  /-- Code 2. -/
  | ctr
  deriving DecidableEq, Repr

/-- `OPDIR`, the direction of the block command in flight (10_state.md R30). -/
inductive OpDir where
  /-- Code 0. -/
  | encrypt
  /-- Code 1. -/
  | decrypt
  deriving DecidableEq, Repr

/-- One turn of one of the two agents (00_scope.md R12): a host transaction, or a turn given to the block. -/
inductive Turn where
  /-- `HostWrite(a, v)`, 20_memory.md R67. -/
  | write (a : Addr) (v : Byte)
  /-- `HostRead(a)`, 20_memory.md R62. -/
  | read (a : Addr)
  /-- `Reset`, 70_reset_and_hazards.md R320. -/
  | reset
  /-- The block's turn: its internal step if it has one. -/
  | engine
  deriving DecidableEq, Repr

/-- The whole state. The fields down to `errinfo` are the spec's tuple (10_state.md R20), under the spec's names;
the last three are the model's own (logs 1, 2, 5). -/
structure State where
  /-- `KEY[0..31]`, R21. -/
  key : Vector Byte 32
  /-- `DIN[0..15]`, R22. -/
  din : Block
  /-- `DOUT[0..15]`, R23. -/
  dout : Block
  /-- `CHAIN[0..15]`, R24. -/
  chain : Block
  /-- `NONCE[0..7]`, R25. -/
  nonce : Vector Byte 8
  /-- `CTR`, R26. -/
  ctr : BitVec 64
  /-- `S[0..15]`, R27. -/
  sreg : Block
  /-- `RK[0..59]`, R28. -/
  rk : Vector Word 60
  /-- `PHASE`, R29. -/
  phase : Phase
  /-- `WIDX`, 0 to 60, R29. -/
  widx : Fin 61
  /-- `RND`, 0 to 14, R29. -/
  rnd : Fin 15
  /-- `OPMODE`, R30. -/
  opmode : OpMode
  /-- `OPDIR`, R30. -/
  opdir : OpDir
  /-- `OPLEN`, 0 at reset and 1 to 16 in use, R30. -/
  oplen : Fin 17
  /-- `KLEN`, R32. -/
  klen : KeyLen
  /-- `KVALID`, R36. -/
  kvalid : Bool
  /-- `DOUT_VALID`, R36. -/
  doutValid : Bool
  /-- `ERR`, R36. -/
  err : Bool
  /-- `CTR_OVF`, R36. -/
  ctrOvf : Bool
  /-- `ERRCODE`, R33. -/
  errcode : Byte
  /-- `ERRINFO`, R34. -/
  errinfo : Byte
  /-- The turns still to come, in order: the interleaving of host and block (log 1). -/
  pending : List Turn
  /-- What host reads have returned, newest first: the host's side of 20_memory.md R62 (log 2). -/
  replies : List (Addr × Byte)
  /-- The number of the next free value (log 5). -/
  draws : Nat
  deriving DecidableEq, Repr

/-- Why the machine stops. No behaviour of the block is stuck (93_implementation_defined.md section 1); these two are
met only in states that 10_state.md R40 rules out (log 7). -/
inductive Fault where
  /-- Raised by the `KX` step when `WIDX ≥ NW(KLEN)`: 42_key_expansion.md R166 gives no step there. SAFE. -/
  | widxOutOfRange
  /-- Raised by the `ENC` and `DEC` steps when `RND > Nr(KLEN)`: 43_round_engine.md R200 and R202 give no step there. SAFE. -/
  | rndOutOfRange
  deriving DecidableEq, Repr

/-- Why the model gives no meaning. -/
inductive Refusal where
  /-- Raised by `exec` for a command that has no meaning yet (none at present). SAFE. -/
  | notModelled (mnemonic : String)
  deriving DecidableEq, Repr

/-- The state right after reset (10_state.md R39, 70_reset_and_hazards.md R320). `RK` is free (R321; log 3). -/
def State.reset : State where
  key := zeroBytes 32
  din := zeroBytes 16
  dout := zeroBytes 16
  chain := zeroBytes 16
  nonce := zeroBytes 8
  ctr := 0
  sreg := zeroBytes 16
  rk := Config.rkReset 0
  phase := .idle
  widx := 0
  rnd := 0
  opmode := .ecb
  opdir := .encrypt
  oplen := 0
  klen := .k128
  kvalid := false
  doutValid := false
  err := false
  ctrOvf := false
  errcode := 0
  errinfo := 0
  pending := []
  replies := []
  draws := 1

end Sys2Proof.Machine
end

