-- ==== Sys2Proof/Machine/Flags.lean ====
section
/-! DEFINITION. The flags and the registers that show them (10_state.md R31, R32, R36). -/

namespace Sys2Proof.Machine

/-- `BUSY` is not state: "`BUSY = 1` exactly when `PHASE ≠ IDLE`" (10_state.md R20, R36). -/
def State.busy (s : State) : Bool := s.phase != .idle

/-- A flag at bit `i` of a byte. -/
def flagBit (b : Bool) (i : Nat) : Byte := if b then (1 : Byte) <<< i else 0

/-- The byte read at `STATUS` (10_state.md R31). -/
def statusByte (s : State) : Byte :=
  flagBit s.busy 0 ||| flagBit s.kvalid 1 ||| flagBit s.doutValid 2 ||| flagBit s.err 3 ||| flagBit s.ctrOvf 4

/-- The code of a key length (00_scope.md R10). -/
def klenCode (kl : KeyLen) : Byte :=
  match kl with
  | .k128 => 0
  | .k192 => 1
  | .k256 => 2

/-- The byte read at `CONFIG`: `KLEN` in bits 1:0, bits 7:2 zero (10_state.md R32). -/
def configByte (s : State) : Byte := klenCode s.klen

/-- `CTR == 2^64 − 1`: the condition under which a CTR finish step sets `CTR_OVF` (44_mode_controller.md R236, R244). -/
def ctrWraps (ctr : BitVec 64) : Bool := ctr == BitVec.allOnes 64

/-- The code of an error cause in `ERRCODE` (60_exceptions.md R281). -/
def causeCode (c : ErrCause) : Byte :=
  match c with
  | .opcode => 0x01
  | .keylen => 0x02
  | .mode => 0x03
  | .nokey => 0x04
  | .empty => 0x05
  | .ctrovf => 0x06
  | .busy => 0x07

end Sys2Proof.Machine
end

