-- ==== Sys2Proof/Machine/GfArith.lean ====
section
/-! DEFINITION. The GF(2^8) arithmetic unit (40_gf_arith.md R120 to R122, R126). -/

namespace Sys2Proof.Machine

/-- `gf_add(a, b) = a ^ b` (40_gf_arith.md R120). -/
def gfAdd (a b : Byte) : Byte := a ^^^ b

/-- `xtimes(b)`: shift left by one, and if bit 7 was shifted out, XOR `0x1B` (40_gf_arith.md R121; 90_conflicts.md C7). -/
def xtimes (b : Byte) : Byte :=
  if b.getLsbD 7 then (b <<< 1) ^^^ 0x1B else b <<< 1

/-- `xtimes` applied `i` times: `b · x^i` (40_gf_arith.md R122). -/
def xtimesIter (b : Byte) (i : Nat) : Byte :=
  match i with
  | 0 => b
  | i + 1 => xtimes (xtimesIter b i)

/-- `gf_mult(b, c)`: for each set bit `i` of `c`, from least to most significant, XOR in `b · x^i` (40_gf_arith.md R122). -/
def gfMult (b c : Byte) : Byte :=
  (List.range 8).foldl (fun acc i => if c.getLsbD i then gfAdd acc (xtimesIter b i) else acc) 0

/-- Bytewise XOR of two byte sequences of one length: the addition of Words and of Blocks (40_gf_arith.md R120). -/
def xorBytes {n : Nat} (a b : Vector Byte n) : Vector Byte n :=
  Vector.ofFn fun k => gfAdd a[k] b[k]

end Sys2Proof.Machine
end

