-- ==== Sys2Proof/Machine/KeySchedule.lean ====
section
/-! DEFINITION. The variants (00_scope.md R10) and the key schedule as a function (42_key_expansion.md R160, R161). -/

namespace Sys2Proof.Machine

/-- `Nk(KLEN)`, words in the key (00_scope.md R10). -/
def nkOf (kl : KeyLen) : Nat :=
  match kl with
  | .k128 => 4
  | .k192 => 6
  | .k256 => 8

/-- `Nr(KLEN)`, rounds (00_scope.md R10): at most 14, the range of `RND` (10_state.md R29). -/
def nrOf (kl : KeyLen) : Fin 15 :=
  match kl with
  | .k128 => 10
  | .k192 => 12
  | .k256 => 14

/-- `NW(KLEN) = 4·(Nr+1)`, round-key words (00_scope.md R10). -/
def nwOf (kl : KeyLen) : Nat := 4 * ((nrOf kl).val + 1)

/-- No variant has more round-key words than `RK` holds (00_scope.md R11). -/
theorem nwOf_le (kl : KeyLen) : nwOf kl ≤ 60 := by
  have h := (nrOf kl).isLt
  unfold nwOf
  omega

/-- Word `i` of a schedule. Every rule reads a word that is there (42_key_expansion.md R161, R166), so the default is
never taken (log 18). -/
def wordAt (w : Schedule) (i : Nat) : Word := w.getD i (zeroBytes 4)

/-- Word `i` of the key, `(key[4i], key[4i+1], key[4i+2], key[4i+3])` (20_memory.md R71.2). `i < 8` wherever it is used, so
the default is never taken (log 18). -/
def keyWord (key : Vector Byte 32) (i : Nat) : Word :=
  Vector.ofFn fun j => key.toList.getD (4 * i + j.val) 0

/-- The term XORed with `w[i-Nk]` for word `i ≥ Nk`: the three cases of 42_key_expansion.md R161, in their order. -/
def kxTemp (prev : Word) (i nk : Nat) : Word :=
  if i % nk = 0 then xorBytes (subWord (rotWord prev)) (rcon (i / nk - 1))
  else if nk > 6 ∧ i % nk = 4 then subWord prev
  else prev

/-- `kx_word(w, key, i, Nk)`, the value of word `i` given the earlier words (42_key_expansion.md R161). -/
def kxWord (w : Schedule) (key : Vector Byte 32) (i nk : Nat) : Word :=
  if i < nk then keyWord key i
  else xorBytes (wordAt w (i - nk)) (kxTemp (wordAt w (i - 1)) i nk)

/-- The first `n` words of the schedule, each made from the ones before it (42_key_expansion.md R160). -/
def expandWords (key : Vector Byte 32) (nk n : Nat) : Schedule :=
  match n with
  | 0 => []
  | n + 1 =>
    let w := expandWords key nk n
    w ++ [kxWord w key n nk]

/-- `KeyExpansion(key, Nk, Nr)`, the `4·(Nr+1)` words of the schedule (42_key_expansion.md R160). The key is the first
`4·Nk` of the 32 bytes of `KEY`; the others are not read (R169; log 17). -/
def keyExpansion (key : Vector Byte 32) (nk nr : Nat) : Schedule :=
  expandWords key nk (4 * (nr + 1))

/-- The schedule of the variant `kl` of the bytes in `KEY` (42_key_expansion.md R162 to R164). -/
def scheduleOf (kl : KeyLen) (key : Vector Byte 32) : Schedule :=
  keyExpansion key (nkOf kl) (nrOf kl).val

end Sys2Proof.Machine
end

