-- ==== Sys2Proof/Machine/RoundEngine.lean ====
section
/-! DEFINITION. The eight round functions, the two ciphers and their single rounds (43_round_engine.md R190 to R202).
Each function makes a new Block from the old one (R208). -/

namespace Sys2Proof.Machine

/-- `SubBytes` (43_round_engine.md R190). -/
def subBytes (s : Block) : Block := Vector.ofFn fun k => sbox s[k]

/-- `InvSubBytes` (43_round_engine.md R191). -/
def invSubBytes (s : Block) : Block := Vector.ofFn fun k => invSbox s[k]

/-- `ShiftRows`: byte `r + 4·c` of the result is `s[r + 4·((c + r) mod 4)]` (43_round_engine.md R192). -/
def shiftRows (s : Block) : Block :=
  Vector.ofFn fun k => s[k.val % 4 + 4 * ((k.val / 4 + k.val % 4) % 4)]

/-- `InvShiftRows`: byte `r + 4·c` of the result is `s[r + 4·((c − r) mod 4)]` (43_round_engine.md R193). -/
def invShiftRows (s : Block) : Block :=
  Vector.ofFn fun k => s[k.val % 4 + 4 * ((k.val / 4 + 4 - k.val % 4) % 4)]

/-- The matrix of `MixColumns`, row by row (43_round_engine.md R194). -/
def mixMatrix : Vector (Vector Byte 4) 4 :=
  #v[#v[0x02, 0x03, 0x01, 0x01],
     #v[0x01, 0x02, 0x03, 0x01],
     #v[0x01, 0x01, 0x02, 0x03],
     #v[0x03, 0x01, 0x01, 0x02]]

/-- The matrix of `InvMixColumns`, row by row (43_round_engine.md R195). -/
def invMixMatrix : Vector (Vector Byte 4) 4 :=
  #v[#v[0x0e, 0x0b, 0x0d, 0x09],
     #v[0x09, 0x0e, 0x0b, 0x0d],
     #v[0x0d, 0x09, 0x0e, 0x0b],
     #v[0x0b, 0x0d, 0x09, 0x0e]]

/-- Every column of `s` multiplied from the left by `m`: byte `r + 4·c` of the result is the sum over `k` of
`m[r][k] · s[k + 4·c]` (43_round_engine.md R194). -/
def mulColumns (m : Vector (Vector Byte 4) 4) (s : Block) : Block :=
  Vector.ofFn fun k =>
    gfAdd
      (gfAdd (gfMult m[k.val % 4][0] s[4 * (k.val / 4)]) (gfMult m[k.val % 4][1] s[4 * (k.val / 4) + 1]))
      (gfAdd (gfMult m[k.val % 4][2] s[4 * (k.val / 4) + 2]) (gfMult m[k.val % 4][3] s[4 * (k.val / 4) + 3]))

/-- `MixColumns` (43_round_engine.md R194). -/
def mixColumns (s : Block) : Block := mulColumns mixMatrix s

/-- `InvMixColumns` (43_round_engine.md R195). -/
def invMixColumns (s : Block) : Block := mulColumns invMixMatrix s

/-- `RoundKey(w, r)`: byte `j + 4·c` is `w[4·r + c][j]` (43_round_engine.md R196). -/
def roundKey (w : Schedule) (r : Nat) : Block :=
  Vector.ofFn fun k => (wordAt w (4 * r + k.val / 4))[k.val % 4]

/-- `AddRoundKey(s, w, r)` (43_round_engine.md R197). -/
def addRoundKey (s : Block) (w : Schedule) (r : Nat) : Block := xorBytes s (roundKey w r)

/-- Rounds 1 to `Nr − 1` of the forward cipher (43_round_engine.md R198). -/
def encMiddle (w : Schedule) (r : Nat) (s : Block) : Block :=
  addRoundKey (mixColumns (shiftRows (subBytes s))) w r

/-- The final round of the forward cipher, without `MixColumns` (43_round_engine.md R198). -/
def encFinal (w : Schedule) (nr : Nat) (s : Block) : Block :=
  addRoundKey (shiftRows (subBytes s)) w nr

/-- `Cipher(w, Nr, in)`, the forward cipher (43_round_engine.md R198). -/
def cipher (w : Schedule) (nr : Nat) (b : Block) : Block :=
  encFinal w nr ((List.range' 1 (nr - 1)).foldl (fun s r => encMiddle w r s) (addRoundKey b w 0))

/-- Rounds `Nr − 1` down to 1 of the inverse cipher: `AddRoundKey` before `InvMixColumns` (43_round_engine.md R199). -/
def decMiddle (w : Schedule) (r : Nat) (s : Block) : Block :=
  invMixColumns (addRoundKey (invSubBytes (invShiftRows s)) w r)

/-- The final round of the inverse cipher (43_round_engine.md R199). -/
def decFinal (w : Schedule) (s : Block) : Block :=
  addRoundKey (invSubBytes (invShiftRows s)) w 0

/-- `InvCipher(w, Nr, in)`, the inverse cipher, with the same schedule (43_round_engine.md R199). -/
def invCipher (w : Schedule) (nr : Nat) (b : Block) : Block :=
  decFinal w ((List.range' 1 (nr - 1)).reverse.foldl (fun s r => decMiddle w r s) (addRoundKey b w nr))

/-- `enc_step(s, w, r, Nr)`, one step of the forward cipher, `0 ≤ r ≤ Nr` (43_round_engine.md R200). -/
def encRound (s : Block) (w : Schedule) (r nr : Nat) : Block :=
  if r = 0 then addRoundKey s w 0
  else if r < nr then encMiddle w r s
  else encFinal w nr s

/-- `dec_step(s, w, r, Nr)`, one step of the inverse cipher, `0 ≤ r ≤ Nr` (43_round_engine.md R202). -/
def decRound (s : Block) (w : Schedule) (r nr : Nat) : Block :=
  if r = nr then addRoundKey s w nr
  else if 1 ≤ r then decMiddle w r s
  else decFinal w s

end Sys2Proof.Machine
end

