-- ==== Sys2Proof/Machine/Operands.lean ====
section
/-! DEFINITION. The operands of the block commands: what goes into the engine (44_mode_controller.md R230, R235, R243),
and the byte order of the counter (20_memory.md R66, R71.6). -/

namespace Sys2Proof.Machine

/-- `be64(n)`: byte `k` is `(n >> (8·(7−k))) & 0xFF` (00_scope.md 6.1). -/
def be64 (n : BitVec 64) : Vector Byte 8 :=
  Vector.ofFn fun k => (n >>> (8 * (7 - k.val))).setWidth 8

/-- The counter block `NONCE ‖ be64(CTR)` (44_mode_controller.md R243). -/
def counterBlock (nonce : Vector Byte 8) (ctr : BitVec 64) : Block :=
  Vector.ofFn fun k =>
    if h : k.val < 8 then nonce[k.val] else (be64 ctr)[k.val - 8]

/-- `DIN[0..7]`, the operand of `LOADNONCE` (44_mode_controller.md R234). -/
def dinNonce (din : Block) : Vector Byte 8 := Vector.ofFn fun k => din[k.val]

/-- What `BlockAccept` loads into `S` (44_mode_controller.md R235). -/
def engineInput (mode : OpMode) (dir : OpDir) (s : State) : Block :=
  match mode, dir with
  | .ecb, _ => s.din
  | .cbc, .encrypt => xorBytes s.din s.chain
  | .cbc, .decrypt => s.din
  | .ctr, _ => counterBlock s.nonce s.ctr

/-- `OPDIR` as latched: 0 for CTR "whatever the command's direction bit" (10_state.md R30, 44_mode_controller.md R245). -/
def latchedDir (mode : OpMode) (dir : OpDir) : OpDir :=
  match mode with
  | .ecb => dir
  | .cbc => dir
  | .ctr => .encrypt

end Sys2Proof.Machine
end

