-- ==== Sys2Proof/Machine/Ops.lean ====
section
/-! DEFINITION. The named operations over the registers and the window: the error entry and the return from it, what a
host read sees, where a host write lands, and the acceptance and finish of an operation. -/

namespace Sys2Proof.Machine

/-- `raise Err(code, info)`, the error entry (60_exceptions.md R289): the record is written only if `ERR` was 0, and
nothing else is written. -/
def raiseErr (c : ErrCause) (info : Byte) (s : State) : State :=
  if s.err then s else { s with err := true, errcode := causeCode c, errinfo := info }

/-- The return (60_exceptions.md R293): the error record is cleared and nothing else is restored. -/
def clearErr (s : State) : State := { s with err := false, errcode := 0, errinfo := 0 }

/-- The tests that stand before every command but `NOP` and `CLRERR` (60_exceptions.md R291.1, R291.4): a write while
`BUSY = 1` is `ERR_BUSY`, and in fault-stop (R292) the command is ignored. `v` is the command byte (log 16). -/
def guarded (v : Byte) (act : State → State) (s : State) : State :=
  if s.busy then raiseErr .busy v s
  else if s.err then s
  else act s

/-- The test that stands before `NOP` and `CLRERR`, which are executed in fault-stop too (60_exceptions.md R291.3). -/
def unlessBusy (v : Byte) (act : State → State) (s : State) : State :=
  if s.busy then raiseErr .busy v s else act s

/-! ### The window -/

/-- The result regions `DOUT`, `CHAIN`, `NONCE`, `CTR`, `RK`, whose reads are open while `BUSY = 1` (20_memory.md R64). -/
def isResultAddr (a : Addr) : Bool :=
  (0x040 ≤ a.toNat && a.toNat ≤ 0x06F) || (0x100 ≤ a.toNat && a.toNat ≤ 0x1EF)

/-- The byte the registers hold at window address `a` (20_memory.md R61, R62, without the draw of R64; log 15). -/
def windowByte (s : State) (a : Addr) : Byte :=
  if a.toNat = 0x000 then 0x00
  else if a.toNat = 0x001 then statusByte s
  else if a.toNat = 0x002 then configByte s
  else if a.toNat = 0x003 then s.errcode
  else if a.toNat = 0x004 then s.errinfo
  else if h : 0x010 ≤ a.toNat ∧ a.toNat ≤ 0x02F then s.key[a.toNat - 0x010]
  else if h : 0x030 ≤ a.toNat ∧ a.toNat ≤ 0x03F then s.din[a.toNat - 0x030]
  else if h : 0x040 ≤ a.toNat ∧ a.toNat ≤ 0x04F then s.dout[a.toNat - 0x040]
  else if h : 0x050 ≤ a.toNat ∧ a.toNat ≤ 0x05F then s.chain[a.toNat - 0x050]
  else if h : 0x060 ≤ a.toNat ∧ a.toNat ≤ 0x067 then s.nonce[a.toNat - 0x060]
  else if 0x068 ≤ a.toNat ∧ a.toNat ≤ 0x06F then (s.ctr >>> (8 * (0x06F - a.toNat))).setWidth 8
  else if h : 0x100 ≤ a.toNat ∧ a.toNat ≤ 0x1EF then (s.rk[(a.toNat - 0x100) / 4])[(a.toNat - 0x100) % 4]
  else 0x00

/-- The byte `HostRead(a)` returns (20_memory.md R62): the register's byte, or in a result region while `BUSY = 1` a free
byte (R64; log 4). -/
def readByte (s : State) (a : Addr) : Byte :=
  if s.busy && isResultAddr a then Config.busyReadByte s.draws else windowByte s a

/-- `HostRead(a)` (20_memory.md R62). No register changes (R65): the byte goes to the host (log 2), and a draw is used up if
one was taken (log 5). -/
def hostRead (a : Addr) (s : State) : State :=
  { s with
    replies := (a, readByte s a) :: s.replies
    draws := if s.busy && isResultAddr a then s.draws + 1 else s.draws }

/-- A host write that is not a command, while `BUSY = 0`: `KEY` and `DIN` store the byte (20_memory.md R68), every other
address ignores it (R70). -/
def storeByte (a : Addr) (v : Byte) (s : State) : State :=
  if h : 0x010 ≤ a.toNat ∧ a.toNat ≤ 0x02F then { s with key := s.key.set (a.toNat - 0x010) v }
  else if h : 0x030 ≤ a.toNat ∧ a.toNat ≤ 0x03F then { s with din := s.din.set (a.toNat - 0x030) v }
  else s

/-- `Reset` (70_reset_and_hazards.md R320), possible in every state. The registers take their reset values, `RK` a fresh
free value (R321; logs 3, 5). The host's side (the turns to come and the replies got) is not the block's and stays. -/
def hostReset (s : State) : State :=
  { State.reset with
    rk := Config.rkReset s.draws
    pending := s.pending
    replies := s.replies
    draws := s.draws + 1 }

/-! ### Acceptance and finish -/

/-- `KeyexpAccept(klen)` (42_key_expansion.md R165). -/
def keyexpAccept (kl : KeyLen) (s : State) : State :=
  { s with klen := kl, kvalid := false, widx := 0, phase := .kx }

/-- The direction of the engine (44_mode_controller.md R235): the inverse cipher only when `mode ≠ 2` and `dir = 1`. -/
def enginePhase (mode : OpMode) (dir : OpDir) : Phase :=
  match latchedDir mode dir with
  | .encrypt => .enc
  | .decrypt => .dec

/-- The first round of the engine: 0 going up, `Nr(KLEN)` going down (44_mode_controller.md R235). -/
def firstRound (mode : OpMode) (dir : OpDir) (kl : KeyLen) : Fin 15 :=
  match latchedDir mode dir with
  | .encrypt => 0
  | .decrypt => nrOf kl

/-- The state changes of an accepted block command (44_mode_controller.md R235). -/
def blockStart (mode : OpMode) (dir : OpDir) (len : Fin 17) (s : State) : State :=
  { s with
    opmode := mode
    opdir := latchedDir mode dir
    oplen := len
    doutValid := false
    sreg := engineInput mode dir s
    phase := enginePhase mode dir
    rnd := firstRound mode dir s.klen }

/-- `BlockAccept(v, mode, dir, len)` (44_mode_controller.md R235): `ERR_NOKEY`, then `ERR_CTROVF`, then acceptance. -/
def blockAccept (v : Byte) (mode : OpMode) (dir : OpDir) (len : Fin 17) (s : State) : State :=
  if !s.kvalid then raiseErr .nokey v s
  else if mode == .ctr && s.ctrOvf then raiseErr .ctrovf v s
  else blockStart mode dir len s

/-- What `Finish(t)` writes to `DOUT` (44_mode_controller.md R236). -/
def finishDout (t : Block) (s : State) : Block :=
  match s.opmode, s.opdir with
  | .ecb, _ => t
  | .cbc, .encrypt => t
  | .cbc, .decrypt => xorBytes t s.chain
  | .ctr, _ => Vector.ofFn fun k => if k.val < s.oplen.val then gfAdd s.din[k] t[k] else 0x00

/-- What `Finish(t)` writes to `CHAIN` (44_mode_controller.md R236). -/
def finishChain (t : Block) (s : State) : Block :=
  match s.opmode, s.opdir with
  | .ecb, _ => s.chain
  | .cbc, .encrypt => t
  | .cbc, .decrypt => s.din
  | .ctr, _ => s.chain

/-- `Finish(t)`, all assignments together, reading the old values (44_mode_controller.md R236). -/
def finish (t : Block) (s : State) : State :=
  { s with
    dout := finishDout t s
    chain := finishChain t s
    ctrOvf := if s.opmode == .ctr then ctrWraps s.ctr else s.ctrOvf
    ctr := if s.opmode == .ctr then s.ctr + 1 else s.ctr
    doutValid := true
    phase := .idle }

end Sys2Proof.Machine
end

