-- ==== Sys2Proof/Machine/BlockCommands.lean ====
section
/-! DEFINITION. The six block commands, acceptance (44_mode_controller.md R235, R237 to R242, R245). The rounds and the
finish step are then the block's (43_round_engine.md R201, R203), in Machine/Engine.lean. -/

namespace Sys2Proof.Machine

/-- `ECB.ENC` (44_mode_controller.md R237). -/
def execEcbEnc (s : State) : Host.Outcome State Fault Refusal :=
  .next (guarded (encode .ecbEnc) (blockAccept (encode .ecbEnc) .ecb .encrypt 16) s)

/-- `ECB.DEC` (44_mode_controller.md R238). -/
def execEcbDec (s : State) : Host.Outcome State Fault Refusal :=
  .next (guarded (encode .ecbDec) (blockAccept (encode .ecbDec) .ecb .decrypt 16) s)

/-- `CBC.ENC` (44_mode_controller.md R239). -/
def execCbcEnc (s : State) : Host.Outcome State Fault Refusal :=
  .next (guarded (encode .cbcEnc) (blockAccept (encode .cbcEnc) .cbc .encrypt 16) s)

/-- `CBC.DEC` (44_mode_controller.md R240). -/
def execCbcDec (s : State) : Host.Outcome State Fault Refusal :=
  .next (guarded (encode .cbcDec) (blockAccept (encode .cbcDec) .cbc .decrypt 16) s)

/-- The direction a direction bit asks for (30_encoding.md R94). -/
def dirOfBit (dir : Bool) : OpDir := if dir then .decrypt else .encrypt

/-- `CTR.BLK`: the direction bit reaches `BlockAccept`, which ignores it in mode 2 (44_mode_controller.md R241, R245). -/
def execCtrBlk (dir : Bool) (s : State) : Host.Outcome State Fault Refusal :=
  .next (guarded (encode (.ctrBlk dir)) (blockAccept (encode (.ctrBlk dir)) .ctr (dirOfBit dir) 16) s)

/-- The byte count of `CTR.PART` as `OPLEN` holds it (10_state.md R30). -/
def partLen (n : BitVec 4) : Fin 17 := ⟨n.toNat, by omega⟩

/-- `CTR.PART n`; `n = 0` is `ERR_EMPTY`, raised before the key check (44_mode_controller.md R242, 60_exceptions.md R286). -/
def ctrPartAccept (n : BitVec 4) (s : State) : State :=
  if n == 0 then raiseErr .empty (encode (.ctrPart n)) s
  else blockAccept (encode (.ctrPart n)) .ctr .encrypt (partLen n) s

/-- `CTR.PART n` (44_mode_controller.md R242). -/
def execCtrPart (n : BitVec 4) (s : State) : Host.Outcome State Fault Refusal :=
  .next (guarded (encode (.ctrPart n)) (ctrPartAccept n) s)

end Sys2Proof.Machine
end

