-- ==== Sys2Proof/Machine/Housekeeping.lean ====
section
/-! DEFINITION. `NOP` and `CLRERR` (44_mode_controller.md R231, R232). -/

namespace Sys2Proof.Machine

/-- `NOP`: nothing, "executed also while `ERR = 1`" (44_mode_controller.md R231). -/
def execNop (s : State) : Host.Outcome State Fault Refusal :=
  .next (unlessBusy (encode .nop) id s)

/-- `CLRERR`: the return from an error, "executed whether `ERR` is 0 or 1" (44_mode_controller.md R232). -/
def execClrerr (s : State) : Host.Outcome State Fault Refusal :=
  .next (unlessBusy (encode .clrerr) clearErr s)

end Sys2Proof.Machine
end

