-- ==== Sys2Proof/Machine/KeyExpansion.lean ====
section
/-! DEFINITION. `KEYEXP`, acceptance, in its three variants (42_key_expansion.md R162 to R165). The words are then made by
the block's `KX` steps (R166), in Machine/Engine.lean. -/

namespace Sys2Proof.Machine

/-- `KEYEXP.128` (42_key_expansion.md R162, R165). -/
def execKeyexp128 (s : State) : Host.Outcome State Fault Refusal :=
  .next (guarded (encode .keyexp128) (keyexpAccept .k128) s)

/-- `KEYEXP.192` (42_key_expansion.md R163, R165). -/
def execKeyexp192 (s : State) : Host.Outcome State Fault Refusal :=
  .next (guarded (encode .keyexp192) (keyexpAccept .k192) s)

/-- `KEYEXP.256` (42_key_expansion.md R164, R165). -/
def execKeyexp256 (s : State) : Host.Outcome State Fault Refusal :=
  .next (guarded (encode .keyexp256) (keyexpAccept .k256) s)

end Sys2Proof.Machine
end

