-- ==== Sys2Proof/Machine/Loads.lean ====
section
/-! DEFINITION. `LOADIV` and `LOADNONCE` (44_mode_controller.md R233, R234): both complete in the write transaction. -/

namespace Sys2Proof.Machine

/-- `CHAIN <- DIN` (44_mode_controller.md R233). -/
def loadChain (s : State) : State := { s with chain := s.din }

/-- `NONCE <- DIN[0..7]; CTR <- 0; CTR_OVF <- 0` (44_mode_controller.md R234). -/
def loadNonce (s : State) : State := { s with nonce := dinNonce s.din, ctr := 0, ctrOvf := false }

/-- `LOADIV` (44_mode_controller.md R233). -/
def execLoadiv (s : State) : Host.Outcome State Fault Refusal :=
  .next (guarded (encode .loadiv) loadChain s)

/-- `LOADNONCE` (44_mode_controller.md R234). -/
def execLoadnonce (s : State) : Host.Outcome State Fault Refusal :=
  .next (guarded (encode .loadnonce) loadNonce s)

end Sys2Proof.Machine
end

