-- ==== Sys2Proof/Machine/Dispatch.lean ====
section
/-! DEFINITION. One arm per command (30_encoding.md R100). -/

namespace Sys2Proof.Machine

/-- What a host write of the command `i` to `CMD` does (30_encoding.md R100). -/
def exec (i : Instr) (s : State) : Host.Outcome State Fault Refusal :=
  match i with
  | .nop => Sys2Proof.Machine.execNop s
  | .keyexp128 => Sys2Proof.Machine.execKeyexp128 s
  | .keyexp192 => Sys2Proof.Machine.execKeyexp192 s
  | .keyexp256 => Sys2Proof.Machine.execKeyexp256 s
  | .loadiv => Sys2Proof.Machine.execLoadiv s
  | .loadnonce => Sys2Proof.Machine.execLoadnonce s
  | .ecbEnc => Sys2Proof.Machine.execEcbEnc s
  | .cbcEnc => Sys2Proof.Machine.execCbcEnc s
  | .ctrBlk dir => Sys2Proof.Machine.execCtrBlk dir s
  | .ecbDec => Sys2Proof.Machine.execEcbDec s
  | .cbcDec => Sys2Proof.Machine.execCbcDec s
  | .ctrPart n => Sys2Proof.Machine.execCtrPart n s
  | .clrerr => Sys2Proof.Machine.execClrerr s

end Sys2Proof.Machine
end

