-- ==== Sys2Proof/Machine/Engine.lean ====
section
/-! DEFINITION. The block's own steps: `KX`, `ENC`, `DEC` (42_key_expansion.md R166, 43_round_engine.md R201, R203;
log 6). -/

namespace Sys2Proof.Machine

/-- The `KX` step: one Word is written, and with the last one the schedule is valid and the block idle
(42_key_expansion.md R166, "0 <= i < NW"; out of that range log 7). -/
def kxStep (s : State) : Host.Outcome State Fault Refusal :=
  if h : s.widx.val < nwOf s.klen then
    .next { s with
      rk := s.rk.set s.widx.val (kxWord s.rk.toList s.key s.widx.val (nkOf s.klen))
        (Nat.lt_of_lt_of_le h (nwOf_le s.klen))
      widx := ⟨s.widx.val + 1, Nat.succ_lt_succ (Nat.lt_of_lt_of_le h (nwOf_le s.klen))⟩
      kvalid := if s.widx.val + 1 = nwOf s.klen then true else s.kvalid
      phase := if s.widx.val + 1 = nwOf s.klen then .idle else s.phase }
  else .fault .widxOutOfRange

/-- The `ENC` step: one round of the forward cipher; the finish actions "belong to the same atomic step as the last round"
(43_round_engine.md R201; `RND > Nr` log 7). -/
def encStep (s : State) : Host.Outcome State Fault Refusal :=
  let t := encRound s.sreg s.rk.toList s.rnd.val (nrOf s.klen).val
  if h : s.rnd.val < (nrOf s.klen).val then
    .next { s with sreg := t, rnd := ⟨s.rnd.val + 1, by omega⟩ }
  else if s.rnd = nrOf s.klen then .next (finish t { s with sreg := t })
  else .fault .rndOutOfRange

/-- The `DEC` step: one round of the inverse cipher, `RND` going down to 0 (43_round_engine.md R203; `RND > Nr` log 7). -/
def decStep (s : State) : Host.Outcome State Fault Refusal :=
  let t := decRound s.sreg s.rk.toList s.rnd.val (nrOf s.klen).val
  if (nrOf s.klen).val < s.rnd.val then .fault .rndOutOfRange
  else if s.rnd.val = 0 then .next (finish t { s with sreg := t })
  else .next { s with sreg := t, rnd := ⟨s.rnd.val - 1, by omega⟩ }

/-- The block's turn: the step its `PHASE` enables; while `PHASE = IDLE` it has none and nothing changes
(00_scope.md R12, 10_state.md R29). -/
def blockStep (s : State) : Host.Outcome State Fault Refusal :=
  match s.phase with
  | .idle => .next s
  | .kx => kxStep s
  | .enc => encStep s
  | .dec => decStep s

end Sys2Proof.Machine
end

