-- ==== Sys2Proof/Machine/Bus.lean ====
section
/-! DEFINITION. The host's transactions and the turns of the two agents (20_memory.md R62, R67, R69; 00_scope.md R12). -/

namespace Sys2Proof.Machine

/-- `Execute(v)`: the byte is decoded and its command executed; a byte that is no command raises the error that rejects it,
unless `ERR = 1` already (30_encoding.md R96, R100; 60_exceptions.md R292). -/
def execute (v : Byte) (s : State) : Host.Outcome State Fault Refusal :=
  match decode v with
  | .ok i => exec i s
  | .error c => .next (guarded v (raiseErr c v) s)

/-- `HostWrite(a, v)` (20_memory.md R67). -/
def hostWrite (a : Addr) (v : Byte) (s : State) : Host.Outcome State Fault Refusal :=
  if s.busy then .next (raiseErr .busy v s)
  else if a.toNat = 0x000 then execute v s
  else .next (storeByte a v s)

/-- One turn of one agent. -/
def takeTurn (t : Turn) (s : State) : Host.Outcome State Fault Refusal :=
  match t with
  | .write a v => hostWrite a v s
  | .read a => .next (hostRead a s)
  | .reset => .next (hostReset s)
  | .engine => blockStep s

/-- The next transition: the first turn of `pending`, or, when the host has nothing more to say, the block's own step
(20_memory.md R76; log 1). -/
def nextTransition (s : State) : Host.Outcome State Fault Refusal :=
  match s.pending with
  | [] => blockStep s
  | t :: rest => takeTurn t { s with pending := rest }

/-- `s` with a host write of the low `nbits` bits of `w` to `CMD` as the next turn (log 12). -/
def placeCommand (s : State) (nbits w : Nat) : State :=
  { s with pending := .write 0x000 (BitVec.ofNat 8 (w % 2 ^ nbits)) :: s.pending }

end Sys2Proof.Machine
end

