-- ==== Sys2Proof/Machine/Step.lean ====
section
/-! DEFINITION. One step of the machine, and where a command is put so that the next step runs it. -/

namespace Sys2Proof.Machine

/-- One transition of the host or of the block (00_scope.md R12). -/
def step (s : State) : Host.Outcome State Fault Refusal := nextTransition s

/-- `s` with the command byte `w` placed where the next step takes it from: a host write to `CMD` at the head of the turns to
come ("Instruction fetch" is the host's write to `CMD`, 20_memory.md R79; log 12). -/
def State.withFetchWord (s : State) (nbits w : Nat) : State := placeCommand s nbits w

end Sys2Proof.Machine
end

