-- ==== Sys2Proof/Safety.lean ====
section
/-! DEFINITION. The terms the claims are stated in: runs of the block, the invariant of reachable states
(10_state.md R40), what the host cannot see (10_state.md R38), and sequences of block commands
(44_mode_controller.md section 7). -/

namespace Sys2Proof.Machine

/-- `n` of the block's own steps, with no host transaction between them. -/
def blockRun (n : Nat) (s : State) : Host.Outcome State Fault Refusal :=
  match n with
  | 0 => .next s
  | n + 1 =>
    match blockStep s with
    | .next t => blockRun n t
    | .fault r => .fault r
    | .refused r => .refused r

/-- No operation in flight and no error recorded: what every command but `NOP` and `CLRERR` needs before it is looked at
(60_exceptions.md R291). -/
abbrev State.ready (s : State) : Prop := s.busy = false ∧ s.err = false

/-- The steps the operation in flight still takes (42_key_expansion.md R166, 43_round_engine.md R201, R203). -/
def stepsLeft (s : State) : Nat :=
  match s.phase with
  | .idle => 0
  | .kx => nwOf s.klen - s.widx.val
  | .enc => (nrOf s.klen).val + 1 - s.rnd.val
  | .dec => s.rnd.val + 1

/-- "Every state reachable from reset … satisfies all of the following" (10_state.md R40; items 1 and 3's `OPMODE` range
are the types of the fields, log 8). -/
structure Inv (s : State) : Prop where
  /-- Item 2. -/
  kx : s.phase = .kx → s.kvalid = false ∧ s.widx.val < nwOf s.klen ∧
    s.rk.toList.take s.widx.val = (scheduleOf s.klen s.key).take s.widx.val
  /-- Item 3, both directions. -/
  engine : s.phase = .enc ∨ s.phase = .dec → s.kvalid = true ∧ s.doutValid = false ∧
    s.rnd.val ≤ (nrOf s.klen).val ∧ 1 ≤ s.oplen.val ∧ (s.opmode ≠ .ctr → s.oplen = 16)
  /-- Item 3, the inverse cipher. -/
  dec : s.phase = .dec → s.opdir = .decrypt ∧ (s.opmode = .ecb ∨ s.opmode = .cbc)
  /-- Item 3, CTR. -/
  ctr : s.phase = .enc → s.opmode = .ctr → s.opdir = .encrypt ∧ s.ctrOvf = false
  /-- Item 4. -/
  record : (s.err = false ↔ s.errcode = 0) ∧ (s.err = false → s.errinfo = 0) ∧ s.errcode.toNat ≤ 7
  /-- Item 5: the schedule is that of some key. -/
  schedule : s.kvalid = true → ∃ k : Vector Byte 32, s.rk.toList.take (nwOf s.klen) = scheduleOf s.klen k
  /-- Item 6. -/
  overflow : s.ctrOvf = true → s.ctr = 0

/-- `s` with the leftovers that "affect nothing" wiped: `WIDX` outside `KX`, and `S`, `RND`, `OPMODE`, `OPDIR`, `OPLEN` outside
`ENC` and `DEC` (10_state.md R27, R29, R30, R38). -/
def wipeLeftovers (s : State) : State :=
  match s.phase with
  | .idle => { s with sreg := zeroBytes 16, widx := 0, rnd := 0, opmode := .ecb, opdir := .encrypt, oplen := 0 }
  | .kx => { s with sreg := zeroBytes 16, rnd := 0, opmode := .ecb, opdir := .encrypt, oplen := 0 }
  | .enc => { s with widx := 0 }
  | .dec => { s with widx := 0 }

/-- The data byte of the first host write of a list of turns: the one an error record made while busy keeps
(60_exceptions.md R288, R289). -/
def firstWrite (turns : List Turn) : Option Byte :=
  match turns with
  | [] => none
  | .write _ v :: _ => some v
  | .read _ :: rest => firstWrite rest
  | .reset :: rest => firstWrite rest
  | .engine :: rest => firstWrite rest

/-- The `KEYEXP` of a variant (30_encoding.md R93). -/
def keyexpOf (kl : KeyLen) : Instr :=
  match kl with
  | .k128 => .keyexp128
  | .k192 => .keyexp192
  | .k256 => .keyexp256

/-- The six block commands (30_encoding.md R91). -/
def isBlockCommand (i : Instr) : Bool :=
  match i with
  | .ecbEnc => true
  | .cbcEnc => true
  | .ctrBlk _ => true
  | .ecbDec => true
  | .cbcDec => true
  | .ctrPart _ => true
  | .nop => false
  | .keyexp128 => false
  | .keyexp192 => false
  | .keyexp256 => false
  | .loadiv => false
  | .loadnonce => false
  | .clrerr => false

/-- One block through one block command: `DIN` filled with `b`, the command executed, the engine run to its end, `DOUT` taken
(30_encoding.md R102, `DO`). -/
def runBlock (i : Instr) (b : Block) (s : State) : Option (Block × State) :=
  match exec i { s with din := b } with
  | .next t =>
    match blockRun ((nrOf s.klen).val + 1) t with
    | .next u => some (u.dout, u)
    | .fault _ => none
    | .refused _ => none
  | .fault _ => none
  | .refused _ => none

/-- The blocks of a message, in order, through one block command (30_encoding.md R103). -/
def runMessage (i : Instr) (bs : List Block) (s : State) : Option (List Block × State) :=
  match bs with
  | [] => some ([], s)
  | b :: rest =>
    match runBlock i b s with
    | none => none
    | some (c, t) =>
      match runMessage i rest t with
      | none => none
      | some (cs, u) => some (c :: cs, u)

/-- `SETIV`: `DIN` filled with `iv`, then `LOADIV` (30_encoding.md R102). -/
def setIv (iv : Block) (s : State) : Option State :=
  match exec .loadiv { s with din := iv } with
  | .next t => some t
  | .fault _ => none
  | .refused _ => none

/-- `SETNONCE`: `DIN` filled with `v`, whose first eight bytes are the nonce, then `LOADNONCE` (30_encoding.md R102). -/
def setNonce (v : Block) (s : State) : Option State :=
  match exec .loadnonce { s with din := v } with
  | .next t => some t
  | .fault _ => none
  | .refused _ => none

/-- `cbc(key, blocks, iv, encrypt)` after `SETKEY` (30_encoding.md R103): `i` is `CBC.ENC` or `CBC.DEC`. -/
def runCbc (i : Instr) (iv : Block) (bs : List Block) (s : State) : Option (List Block × State) :=
  match setIv iv s with
  | none => none
  | some t => runMessage i bs t

/-- `ctr(key, nonce, data)` after `SETKEY` (30_encoding.md R103): full blocks through `CTR.BLK`, and, if bytes remain, their
number `n` and a block that starts with them through `CTR.PART n`. The answer has the tail's `DOUT` in the same place. -/
def runCtr (nonce : Block) (dir : Bool) (bs : List Block) (tail : Option (BitVec 4 × Block)) (s : State) :
    Option (List Block × Option (BitVec 4 × Block) × State) :=
  match setNonce nonce s with
  | none => none
  | some t =>
    match runMessage (.ctrBlk dir) bs t, tail with
    | none, _ => none
    | some (cs, u), none => some (cs, none, u)
    | some (cs, u), some (n, b) =>
      match runBlock (.ctrPart n) b u with
      | none => none
      | some (c, v) => some (cs, some (n, c), v)

/-- The first `n` bytes of a Block, the others `0x00`. -/
def keepFirst (n : Nat) (b : Block) : Block := Vector.ofFn fun k => if k.val < n then b[k] else 0x00

/-- `C[0] = E(P[0] ^ iv)`, `C[i] = E(P[i] ^ C[i−1])` (44_mode_controller.md R246.2). -/
def cbcEncrypt (e : Block → Block) (iv : Block) (ps : List Block) : List Block :=
  match ps with
  | [] => []
  | p :: rest => e (xorBytes p iv) :: cbcEncrypt e (e (xorBytes p iv)) rest

/-- `P[0] = D(C[0]) ^ iv`, `P[i] = D(C[i]) ^ C[i−1]` (44_mode_controller.md R246.3). -/
def cbcDecrypt (d : Block → Block) (iv : Block) (cs : List Block) : List Block :=
  match cs with
  | [] => []
  | c :: rest => xorBytes (d c) iv :: cbcDecrypt d c rest

/-- Block `i` XOR `E(nonce ‖ be64(ctr + i))` (44_mode_controller.md R246.4). -/
def ctrProcess (e : Block → Block) (nonce : Vector Byte 8) (ctr : BitVec 64) (bs : List Block) : List Block :=
  match bs with
  | [] => []
  | b :: rest => xorBytes b (e (counterBlock nonce ctr)) :: ctrProcess e nonce (ctr + 1) rest

end Sys2Proof.Machine
end

