-- ==== Sys2Proof/Certificates/Slice0/Obligations.lean ====
section
/-! DEFINITION. The statements for the provers. Each docstring names the rule it formalises, or says from which rules it is
derived. Where a statement speaks of `pending`, `replies` or `draws`, that part is the model's own choice (logs 1, 2, 5): the
spec has the host's transactions and no list of them. -/

open Sys2Proof Sys2Proof.Machine

/-! ### Encoding -/

/-- Derived from 30_encoding.md R91: bytes written out bit by bit from the opcode map decode to their commands. -/
def Obligations.SpecBytesDecode : Prop :=
  decode 0b00000000 = .ok .nop ∧ decode 0b00010001 = .ok .keyexp192 ∧ decode 0b00100000 = .ok .loadiv ∧
  decode 0b01000101 = .ok .cbcDec ∧ decode 0b01000110 = .ok (.ctrBlk true) ∧ decode 0b01011010 = .ok (.ctrPart 10) ∧
  decode 0b01100000 = .ok .clrerr

/-- Derived from 30_encoding.md R91, R95: no bit of a command is lost by encoding it. -/
def Obligations.DecodeEncodeAgree : Prop :=
  ∀ i : Instr, i.wf = true → decode (encode i) = .ok i

/-- Derived from 30_encoding.md R91, R98: a byte that decodes is the one byte of a well-formed command. -/
def Obligations.DecodedByteIsItsEncoding : Prop :=
  ∀ (v : Byte) (i : Instr), decode v = .ok i → i.wf = true ∧ encode i = v

/-- Derived from 30_encoding.md R96, R97: which byte values are rejected, and by which error. -/
def Obligations.RejectedBytesByCause : Prop :=
  ∀ v : Byte,
    (decode v = .error .keylen ↔ v = 0x13) ∧
    (decode v = .error .mode ↔ v = 0x43 ∨ v = 0x47) ∧
    (decode v = .error .empty ↔ v = 0x50) ∧
    (decode v = .error .opcode ↔
      (0x01 ≤ v.toNat ∧ v.toNat ≤ 0x0F) ∨ (0x14 ≤ v.toNat ∧ v.toNat ≤ 0x1F) ∨
      (0x21 ≤ v.toNat ∧ v.toNat ≤ 0x2F) ∨ (0x31 ≤ v.toNat ∧ v.toNat ≤ 0x3F) ∨
      (0x48 ≤ v.toNat ∧ v.toNat ≤ 0x4F) ∨ (0x61 ≤ v.toNat ∧ v.toNat ≤ 0x6F) ∨ 0x70 ≤ v.toNat)

/-! ### A step runs the command that was written -/

/-- Derived from 20_memory.md R67, R69, R79: the host's write of a byte that decodes to `i` is `exec i`, after the write is
taken off the turns to come (log 1); and a command placed by `withFetchWord` is run by the very next step (the placing is
log 12). The rules say this of a write while `BUSY = 0`. While `BUSY = 1` the write is discarded (R67), and that the step is
`exec i` there too is the model's choice: its `exec` tests `BUSY` itself (log 16). -/
def Obligations.StepRunsWrittenCommand : Prop :=
  (∀ (s : State) (v : Byte) (i : Instr) (rest : List Turn),
    s.pending = .write 0x000 v :: rest → decode v = .ok i → step s = exec i { s with pending := rest }) ∧
  (∀ (s : State) (v : Byte) (i : Instr), decode v = .ok i → step (s.withFetchWord 8 v.toNat) = exec i s)

/-- Derived from 20_memory.md R76 and logs 1, 12: the turn of the block is its own step, taken too when no turn is
pending. -/
def Obligations.EngineTurnIsBlockStep : Prop :=
  (∀ (s : State) (rest : List Turn), s.pending = .engine :: rest → step s = blockStep { s with pending := rest }) ∧
  (∀ s : State, s.pending = [] → step s = blockStep s) ∧
  (∀ s : State, s.phase = .idle → blockStep s = .next s)

/-- Derived from 30_encoding.md R97: every host write is answered, in every state. -/
def Obligations.EveryHostWriteAnswers : Prop :=
  ∀ (s : State) (a : Addr) (v : Byte) (rest : List Turn), s.pending = .write a v :: rest → ∃ t, step s = .next t

/-! ### Housekeeping and loads -/

/-- 44_mode_controller.md R231: `NOP` changes nothing, also while `ERR = 1`. -/
def Obligations.NopChangesNothing : Prop :=
  decode 0x00 = .ok .nop ∧ ∀ s : State, s.busy = false → exec .nop s = .next s

/-- 44_mode_controller.md R232: `CLRERR` clears the record, whether or not `ERR` is set, and writes nothing else. -/
def Obligations.ClrerrClearsRecordOnly : Prop :=
  decode 0x60 = .ok .clrerr ∧
  ∀ s : State, s.busy = false → exec .clrerr s = .next { s with err := false, errcode := 0x00, errinfo := 0x00 }

/-- 44_mode_controller.md R233: `LOADIV` writes `CHAIN` only; no key is needed. -/
def Obligations.LoadivCopiesDinToChain : Prop :=
  decode 0x20 = .ok .loadiv ∧ ∀ s : State, s.ready → exec .loadiv s = .next { s with chain := s.din }

/-- 44_mode_controller.md R234: `LOADNONCE` takes the first eight bytes of `DIN` and starts the counter at 0. -/
def Obligations.LoadnonceStartsCounter : Prop :=
  decode 0x30 = .ok .loadnonce ∧
  ∀ s : State, s.ready →
    ∃ n : Vector Byte 8, (∀ k : Fin 8, n[k.val] = s.din[k.val]) ∧
      exec .loadnonce s = .next { s with nonce := n, ctr := 0, ctrOvf := false }

/-! ### Key expansion -/

/-- 42_key_expansion.md R165: the acceptance of `KEYEXP`, in each variant, whatever `KVALID` is. -/
def Obligations.KeyexpAcceptance : Prop :=
  decode 0x10 = .ok (keyexpOf .k128) ∧ decode 0x11 = .ok (keyexpOf .k192) ∧ decode 0x12 = .ok (keyexpOf .k256) ∧
  ∀ (kl : KeyLen) (s : State), s.ready →
    exec (keyexpOf kl) s = .next { s with klen := kl, kvalid := false, widx := 0, phase := .kx }

/-- 42_key_expansion.md R160, R161, 41_sbox_tables.md R142, R143, R144: each word of a schedule, from the words before
it. -/
def Obligations.ScheduleWordsFollowRecurrence : Prop :=
  ∀ (kl : KeyLen) (key : Vector Byte 32),
    (scheduleOf kl key).length = nwOf kl ∧
    ∀ i : Nat, i < nwOf kl →
      (∀ j : Fin 4, i < nkOf kl → (wordAt (scheduleOf kl key) i)[j.val] = key.toList.getD (4 * i + j.val) 0) ∧
      (nkOf kl ≤ i → i % nkOf kl = 0 →
        wordAt (scheduleOf kl key) i = xorBytes (wordAt (scheduleOf kl key) (i - nkOf kl))
          (xorBytes (subWord (rotWord (wordAt (scheduleOf kl key) (i - 1)))) (rcon (i / nkOf kl - 1)))) ∧
      (nkOf kl ≤ i → kl = .k256 → i % 8 = 4 →
        wordAt (scheduleOf kl key) i = xorBytes (wordAt (scheduleOf kl key) (i - 8))
          (subWord (wordAt (scheduleOf kl key) (i - 1)))) ∧
      (nkOf kl ≤ i → i % nkOf kl ≠ 0 → ¬ (kl = .k256 ∧ i % 8 = 4) →
        wordAt (scheduleOf kl key) i = xorBytes (wordAt (scheduleOf kl key) (i - nkOf kl))
          (wordAt (scheduleOf kl key) (i - 1)))

/-- Derived from 42_key_expansion.md R169: the bytes of `KEY` from `4·Nk` up do not enter the schedule. -/
def Obligations.ScheduleReadsOnlyItsKeyBytes : Prop :=
  ∀ (kl : KeyLen) (k₁ k₂ : Vector Byte 32),
    (∀ j : Fin 32, j.val < 4 * nkOf kl → k₁[j.val] = k₂[j.val]) → scheduleOf kl k₁ = scheduleOf kl k₂

/-- Derived from 42_key_expansion.md R165, R166, R168, R172: `KEYEXP` runs to its end in exactly `NW` steps, fills
`RK[0..NW−1]` with the schedule, leaves the tail of `RK`, and changes nothing else. -/
def Obligations.KeyexpFillsSchedule : Prop :=
  ∀ (kl : KeyLen) (s : State), s.ready →
    ∃ t rk, exec (keyexpOf kl) s = .next t ∧ t.busy = true ∧ t.kvalid = false ∧
      blockRun (nwOf kl) t =
        .next { s with klen := kl, kvalid := true, rk := rk, widx := ⟨nwOf kl, Nat.lt_succ_of_le (nwOf_le kl)⟩ } ∧
      rk.toList.take (nwOf kl) = scheduleOf kl s.key ∧
      rk.toList.drop (nwOf kl) = s.rk.toList.drop (nwOf kl)

/-- Derived from 42_key_expansion.md R168, 20_memory.md R67: the same under any interleaving of host reads and writes with
the `NW` turns of the block, every host write being discarded and the first one recorded. -/
def Obligations.KeyexpCompletesUnderInterleaving : Prop :=
  ∀ (kl : KeyLen) (s : State) (mid rest : List Turn), s.ready →
    s.pending = .write 0x000 (encode (keyexpOf kl)) :: (mid ++ .engine :: rest) →
    Turn.reset ∉ mid → mid.count .engine + 1 = nwOf kl →
    ∃ rk replies draws, Sys2Proof.core.run (mid.length + 2) s =
        .next { s with
          klen := kl, kvalid := true, rk := rk, widx := ⟨nwOf kl, Nat.lt_succ_of_le (nwOf_le kl)⟩
          err := (firstWrite mid).isSome
          errcode := if (firstWrite mid).isSome then 0x07 else s.errcode
          errinfo := (firstWrite mid).getD s.errinfo
          pending := rest, replies := replies, draws := draws } ∧
      rk.toList.take (nwOf kl) = scheduleOf kl s.key ∧
      rk.toList.drop (nwOf kl) = s.rk.toList.drop (nwOf kl)

/-! ### The arithmetic and the round functions -/

/-- Derived from 40_gf_arith.md R123, items 2, 3, 4, 6, 7: the field laws. -/
def Obligations.GfMultIsFieldMultiplication : Prop :=
  (∀ a b : Byte, gfMult a b = gfMult b a) ∧
  (∀ a b c : Byte, gfMult (gfMult a b) c = gfMult a (gfMult b c)) ∧
  (∀ a b c : Byte, gfMult a (gfAdd b c) = gfAdd (gfMult a b) (gfMult a c)) ∧
  (∀ a b : Byte, gfMult a b = 0 → a = 0 ∨ b = 0) ∧
  (∀ a : Byte, a ≠ 0 → ∃ b, gfMult a b = 0x01 ∧ ∀ c, gfMult a c = 0x01 → c = b)

/-- Derived from 40_gf_arith.md R124: the products by the seven constants the block uses. -/
def Obligations.ConstantMultipliers : Prop :=
  ∀ a : Byte,
    gfMult a 0x01 = a ∧ gfMult a 0x02 = xtimes a ∧ gfMult a 0x03 = xtimes a ^^^ a ∧
    gfMult a 0x09 = xtimes (xtimes (xtimes a)) ^^^ a ∧
    gfMult a 0x0b = xtimes (xtimes (xtimes a)) ^^^ xtimes a ^^^ a ∧
    gfMult a 0x0d = xtimes (xtimes (xtimes a)) ^^^ xtimes (xtimes a) ^^^ a ∧
    gfMult a 0x0e = xtimes (xtimes (xtimes a)) ^^^ xtimes (xtimes a) ^^^ xtimes a

/-- Derived from 41_sbox_tables.md R145: the table equals its generating formula (whose source is the spec's general
knowledge, log 11). -/
def Obligations.SboxIsAffineOfInverse : Prop :=
  sbox 0x00 = 0x63 ∧
  ∀ a b : Byte, gfMult a b = 0x01 →
    sbox a = b ^^^ b.rotateLeft 1 ^^^ b.rotateLeft 2 ^^^ b.rotateLeft 3 ^^^ b.rotateLeft 4 ^^^ 0x63

/-- Derived from 41_sbox_tables.md R141, R146 and 43_round_engine.md R206: every round function is undone by its
inverse. -/
def Obligations.RoundFunctionsHaveInverses : Prop :=
  (∀ s : Block, invSubBytes (subBytes s) = s ∧ subBytes (invSubBytes s) = s) ∧
  (∀ s : Block, invShiftRows (shiftRows s) = s ∧ shiftRows (invShiftRows s) = s) ∧
  (∀ s : Block, invMixColumns (mixColumns s) = s ∧ mixColumns (invMixColumns s) = s) ∧
  (∀ (s : Block) (w : Schedule) (r : Nat), addRoundKey (addRoundKey s w r) w r = s) ∧
  (∀ s : Block, subBytes (shiftRows s) = shiftRows (subBytes s))

/-- Derived from 43_round_engine.md R200, R202: the single rounds, in their order, make up the two ciphers. -/
def Obligations.RoundsComposeToCiphers : Prop :=
  ∀ (w : Schedule) (nr : Nat) (b : Block), 1 ≤ nr →
    (List.range (nr + 1)).foldl (fun s r => encRound s w r nr) b = cipher w nr b ∧
    (List.range (nr + 1)).reverse.foldl (fun s r => decRound s w r nr) b = invCipher w nr b

/-- Derived from 43_round_engine.md R205: the inverse cipher undoes the forward cipher and the other way round, for every
sequence of words, not only for schedules of keys. -/
def Obligations.CipherRoundTrip : Prop :=
  ∀ (w : Schedule) (nr : Nat) (b : Block), 1 ≤ nr →
    invCipher w nr (cipher w nr b) = b ∧ cipher w nr (invCipher w nr b) = b

/-! ### The block commands, from acceptance to `BUSY = 0` -/

/-- 44_mode_controller.md R237, and the acceptance R235 gives it. -/
def Obligations.EcbEncEncryptsDin : Prop :=
  decode 0x40 = .ok .ecbEnc ∧
  ∀ s : State, s.ready → s.kvalid = true →
    ∃ t, exec .ecbEnc s = .next t ∧
      t = { s with doutValid := false, sreg := s.din, phase := .enc, rnd := 0
                   opmode := .ecb, opdir := .encrypt, oplen := 16 } ∧
      blockRun ((nrOf s.klen).val + 1) t =
        .next { s with
          dout := cipher s.rk.toList (nrOf s.klen).val s.din
          doutValid := true
          sreg := cipher s.rk.toList (nrOf s.klen).val s.din
          rnd := nrOf s.klen, opmode := .ecb, opdir := .encrypt, oplen := 16 }

/-- 44_mode_controller.md R238, and the acceptance R235 gives it. -/
def Obligations.EcbDecDecryptsDin : Prop :=
  decode 0x44 = .ok .ecbDec ∧
  ∀ s : State, s.ready → s.kvalid = true →
    ∃ t, exec .ecbDec s = .next t ∧
      t = { s with doutValid := false, sreg := s.din, phase := .dec, rnd := nrOf s.klen
                   opmode := .ecb, opdir := .decrypt, oplen := 16 } ∧
      blockRun ((nrOf s.klen).val + 1) t =
        .next { s with
          dout := invCipher s.rk.toList (nrOf s.klen).val s.din
          doutValid := true
          sreg := invCipher s.rk.toList (nrOf s.klen).val s.din
          rnd := 0, opmode := .ecb, opdir := .decrypt, oplen := 16 }

/-- 44_mode_controller.md R239, and the acceptance R235 gives it. -/
def Obligations.CbcEncChainsItsOutput : Prop :=
  decode 0x41 = .ok .cbcEnc ∧
  ∀ s : State, s.ready → s.kvalid = true →
    ∃ t, exec .cbcEnc s = .next t ∧
      t = { s with doutValid := false, sreg := xorBytes s.din s.chain, phase := .enc, rnd := 0
                   opmode := .cbc, opdir := .encrypt, oplen := 16 } ∧
      blockRun ((nrOf s.klen).val + 1) t =
        .next { s with
          dout := cipher s.rk.toList (nrOf s.klen).val (xorBytes s.din s.chain)
          chain := cipher s.rk.toList (nrOf s.klen).val (xorBytes s.din s.chain)
          doutValid := true
          sreg := cipher s.rk.toList (nrOf s.klen).val (xorBytes s.din s.chain)
          rnd := nrOf s.klen, opmode := .cbc, opdir := .encrypt, oplen := 16 }

/-- 44_mode_controller.md R240: the old `CHAIN` is used for `DOUT`, and the new one is the input. -/
def Obligations.CbcDecChainsItsInput : Prop :=
  decode 0x45 = .ok .cbcDec ∧
  ∀ s : State, s.ready → s.kvalid = true →
    ∃ t, exec .cbcDec s = .next t ∧
      t = { s with doutValid := false, sreg := s.din, phase := .dec, rnd := nrOf s.klen
                   opmode := .cbc, opdir := .decrypt, oplen := 16 } ∧
      blockRun ((nrOf s.klen).val + 1) t =
        .next { s with
          dout := xorBytes (invCipher s.rk.toList (nrOf s.klen).val s.din) s.chain
          chain := s.din
          doutValid := true
          sreg := invCipher s.rk.toList (nrOf s.klen).val s.din
          rnd := 0, opmode := .cbc, opdir := .decrypt, oplen := 16 }

/-- 44_mode_controller.md R241, R245: the same for both values of the direction bit. -/
def Obligations.CtrBlkXorsKeystream : Prop :=
  decode 0x42 = .ok (.ctrBlk false) ∧ decode 0x46 = .ok (.ctrBlk true) ∧
  ∀ (s : State) (dir : Bool), s.ready → s.kvalid = true → s.ctrOvf = false →
    ∃ t, exec (.ctrBlk dir) s = .next t ∧
      t = { s with doutValid := false, sreg := counterBlock s.nonce s.ctr, phase := .enc, rnd := 0
                   opmode := .ctr, opdir := .encrypt, oplen := 16 } ∧
      blockRun ((nrOf s.klen).val + 1) t =
        .next { s with
          dout := xorBytes s.din (cipher s.rk.toList (nrOf s.klen).val (counterBlock s.nonce s.ctr))
          ctr := s.ctr + 1
          ctrOvf := decide (s.ctr.toNat = 2 ^ 64 - 1)
          doutValid := true
          sreg := cipher s.rk.toList (nrOf s.klen).val (counterBlock s.nonce s.ctr)
          rnd := nrOf s.klen, opmode := .ctr, opdir := .encrypt, oplen := 16 }

/-- 44_mode_controller.md R242: the first `n` keystream bytes are used, the other bytes of `DOUT` are zero, and the
counter advances as for a full block. -/
def Obligations.CtrPartTruncatesKeystream : Prop :=
  ∀ (s : State) (n : BitVec 4), n ≠ 0 → s.ready → s.kvalid = true → s.ctrOvf = false →
    decode ((5 : BitVec 4) ++ n) = .ok (.ctrPart n) ∧
    ∃ t dout, exec (.ctrPart n) s = .next t ∧
      t = { s with doutValid := false, sreg := counterBlock s.nonce s.ctr, phase := .enc, rnd := 0
                   opmode := .ctr, opdir := .encrypt, oplen := ⟨n.toNat, Nat.lt_succ_of_lt n.isLt⟩ } ∧
      blockRun ((nrOf s.klen).val + 1) t =
        .next { s with
          dout := dout
          ctr := s.ctr + 1
          ctrOvf := decide (s.ctr.toNat = 2 ^ 64 - 1)
          doutValid := true
          sreg := cipher s.rk.toList (nrOf s.klen).val (counterBlock s.nonce s.ctr)
          rnd := nrOf s.klen, opmode := .ctr, opdir := .encrypt, oplen := ⟨n.toNat, Nat.lt_succ_of_lt n.isLt⟩ } ∧
      ∀ k : Fin 16, dout[k.val] =
        if k.val < n.toNat
        then s.din[k.val] ^^^ (cipher s.rk.toList (nrOf s.klen).val (counterBlock s.nonce s.ctr))[k.val]
        else 0x00

/-- 44_mode_controller.md R243: the counter block is the nonce followed by the counter, most significant byte first. -/
def Obligations.CounterBlockLayout : Prop :=
  ∀ (nonce : Vector Byte 8) (ctr : BitVec 64) (k : Fin 8),
    (counterBlock nonce ctr)[k.val] = nonce[k.val] ∧
    (counterBlock nonce ctr)[8 + k.val].toNat = ctr.toNat / 2 ^ (8 * (7 - k.val)) % 256

/-! ### Errors -/

/-- Derived from 60_exceptions.md R282: a reserved opcode or a non-zero must-be-zero bit. -/
def Obligations.OpcodeErrorIsRecorded : Prop :=
  ∀ (s : State) (v : Byte) (rest : List Turn), s.ready → s.pending = .write 0x000 v :: rest →
    (7 ≤ v.toNat / 16 ∨
      ((v.toNat / 16 = 0 ∨ v.toNat / 16 = 2 ∨ v.toNat / 16 = 3 ∨ v.toNat / 16 = 6) ∧ v.toNat % 16 ≠ 0) ∨
      (v.toNat / 16 = 1 ∧ 4 ≤ v.toNat % 16) ∨ (v.toNat / 16 = 4 ∧ 8 ≤ v.toNat % 16)) →
    step s = .next { s with pending := rest, err := true, errcode := 0x01, errinfo := v }

/-- Derived from 60_exceptions.md R283, R284, R286: an invalid field value, with or without a key; and the model's term
for the byte `0x50`, which its decoder rejects, records the same (log 10). -/
def Obligations.FieldErrorIsRecorded : Prop :=
  ∀ (s : State) (rest : List Turn), s.ready →
    (s.pending = .write 0x000 0x13 :: rest →
      step s = .next { s with pending := rest, err := true, errcode := 0x02, errinfo := 0x13 }) ∧
    (∀ v : Byte, v = 0x43 ∨ v = 0x47 → s.pending = .write 0x000 v :: rest →
      step s = .next { s with pending := rest, err := true, errcode := 0x03, errinfo := v }) ∧
    (s.pending = .write 0x000 0x50 :: rest →
      step s = .next { s with pending := rest, err := true, errcode := 0x05, errinfo := 0x50 }) ∧
    exec (.ctrPart 0) s = .next { s with err := true, errcode := 0x05, errinfo := 0x50 }

/-- 60_exceptions.md R285: a block command without a key, whatever `CTR_OVF` is. -/
def Obligations.BlockCommandNeedsKey : Prop :=
  ∀ (i : Instr) (s : State), i.wf = true → isBlockCommand i = true → s.ready → s.kvalid = false →
    exec i s = .next { s with err := true, errcode := 0x04, errinfo := encode i }

/-- 60_exceptions.md R287: a CTR block command after the 2^64 counter values of a nonce are used up. -/
def Obligations.CtrCommandRefusedAfterOverflow : Prop :=
  ∀ (s : State) (i : Instr), ((∃ dir, i = .ctrBlk dir) ∨ ∃ n, n ≠ 0 ∧ i = .ctrPart n) →
    s.ready → s.kvalid = true → s.ctrOvf = true →
    exec i s = .next { s with err := true, errcode := 0x06, errinfo := encode i }

/-- Derived from 60_exceptions.md R288, 20_memory.md R67: a host write while `BUSY = 1`, to any address, is discarded
and recorded unless an error is recorded already. -/
def Obligations.WriteWhileBusyIsDiscarded : Prop :=
  ∀ (s : State) (a : Addr) (v : Byte) (rest : List Turn), s.busy = true → s.pending = .write a v :: rest →
    (s.err = false → step s = .next { s with pending := rest, err := true, errcode := 0x07, errinfo := v }) ∧
    (s.err = true → step s = .next { s with pending := rest })

/-- Derived from 60_exceptions.md R292: in fault-stop every byte but `0x00` and `0x60` is ignored, legal or not. -/
def Obligations.FaultStopIgnoresCommands : Prop :=
  ∀ (s : State) (v : Byte) (rest : List Turn), s.busy = false → s.err = true → s.pending = .write 0x000 v :: rest →
    v ≠ 0x00 → v ≠ 0x60 → step s = .next { s with pending := rest }

/-- Derived from 60_exceptions.md R290: whatever raises an error changes nothing but the record, and the cause is a host
write. -/
def Obligations.ErrorsArePrecise : Prop :=
  ∀ s t : State, step s = .next t → s.err = false → t.err = true →
    ∃ (c : ErrCause) (a : Addr) (v : Byte) (rest : List Turn), s.pending = .write a v :: rest ∧
      t = { s with pending := rest, err := true, errcode := causeCode c, errinfo := v }

/-- Derived from 60_exceptions.md R293, R294: the record is left only by `CLRERR` or reset, and until then it does not
change. -/
def Obligations.RecordStaysUntilCleared : Prop :=
  ∀ s t : State, step s = .next t → s.err = true →
    (t.err = true ∧ t.errcode = s.errcode ∧ t.errinfo = s.errinfo) ∨
    (∃ rest, s.busy = false ∧ s.pending = .write 0x000 0x60 :: rest ∧
      t = { s with pending := rest, err := false, errcode := 0x00, errinfo := 0x00 }) ∨
    (∃ rest, s.pending = .reset :: rest)

/-! ### The window -/

/-- Derived from 20_memory.md R62, R63, R66, 10_state.md R31, R32: what each address reads as, and that a read changes
no register and raises nothing. In a result region while `BUSY = 1` the byte is open (R64; log 4). -/
def Obligations.HostReadReturnsRegister : Prop :=
  ∀ (s : State) (a : Addr) (rest : List Turn), s.pending = .read a :: rest →
    ∃ b draws, step s = .next { s with pending := rest, replies := (a, b) :: s.replies, draws := draws } ∧
      (a.toNat = 0x000 → b = 0x00) ∧
      (a.toNat = 0x001 →
        b.getLsbD 0 = s.busy ∧ b.getLsbD 1 = s.kvalid ∧ b.getLsbD 2 = s.doutValid ∧ b.getLsbD 3 = s.err ∧
        b.getLsbD 4 = s.ctrOvf ∧ b.toNat < 32) ∧
      (a.toNat = 0x002 →
        b.toNat = match s.klen with
          | .k128 => 0
          | .k192 => 1
          | .k256 => 2) ∧
      (a.toNat = 0x003 → b = s.errcode) ∧
      (a.toNat = 0x004 → b = s.errinfo) ∧
      ((0x005 ≤ a.toNat ∧ a.toNat ≤ 0x00F) ∨ (0x070 ≤ a.toNat ∧ a.toNat ≤ 0x0FF) ∨ 0x1F0 ≤ a.toNat → b = 0x00) ∧
      (∀ k : Fin 32, a.toNat = 0x010 + k.val → b = s.key[k.val]) ∧
      (∀ k : Fin 16, a.toNat = 0x030 + k.val → b = s.din[k.val]) ∧
      (s.busy = false →
        (∀ k : Fin 16, a.toNat = 0x040 + k.val → b = s.dout[k.val]) ∧
        (∀ k : Fin 16, a.toNat = 0x050 + k.val → b = s.chain[k.val]) ∧
        (∀ k : Fin 8, a.toNat = 0x060 + k.val → b = s.nonce[k.val]) ∧
        (∀ k : Fin 8, a.toNat = 0x068 + k.val → b.toNat = s.ctr.toNat / 2 ^ (8 * (7 - k.val)) % 256) ∧
        (∀ (i : Fin 60) (j : Fin 4), a.toNat = 0x100 + 4 * i.val + j.val → b = (s.rk[i.val])[j.val]))

/-- Derived from 20_memory.md R68: a write to `KEY` or `DIN` while `BUSY = 0` stores the byte, also while `ERR = 1`, and
does nothing else. -/
def Obligations.DataWriteStoresByte : Prop :=
  ∀ (s : State) (a : Addr) (v : Byte) (rest : List Turn), s.busy = false → s.pending = .write a v :: rest →
    (∀ k : Fin 32, a.toNat = 0x010 + k.val →
      ∃ key : Vector Byte 32, step s = .next { s with pending := rest, key := key } ∧
        ∀ j : Fin 32, key[j.val] = if j = k then v else s.key[j.val]) ∧
    (∀ k : Fin 16, a.toNat = 0x030 + k.val →
      ∃ din : Block, step s = .next { s with pending := rest, din := din } ∧
        ∀ j : Fin 16, din[j.val] = if j = k then v else s.din[j.val])

/-- Derived from 20_memory.md R70: a write while `BUSY = 0` to a read-only register or a reserved address is ignored. -/
def Obligations.ReadOnlyWriteIsIgnored : Prop :=
  ∀ (s : State) (a : Addr) (v : Byte) (rest : List Turn), s.busy = false → s.pending = .write a v :: rest →
    (0x001 ≤ a.toNat ∧ a.toNat ≤ 0x00F) ∨ 0x040 ≤ a.toNat → step s = .next { s with pending := rest }

/-! ### Who writes which register, over all transitions but reset -/

/-- Derived from 10_state.md R21, R22: `KEY` and `DIN` are written only by host writes to their own addresses. -/
def Obligations.KeyAndDinWrittenOnlyByHost : Prop :=
  ∀ s t : State, step s = .next t → s.pending.head? ≠ some .reset →
    (∀ k : Fin 32, t.key[k.val] ≠ s.key[k.val] →
      s.busy = false ∧ ∃ a v rest, s.pending = .write a v :: rest ∧ a.toNat = 0x010 + k.val ∧ t.key[k.val] = v) ∧
    (∀ k : Fin 16, t.din[k.val] ≠ s.din[k.val] →
      s.busy = false ∧ ∃ a v rest, s.pending = .write a v :: rest ∧ a.toNat = 0x030 + k.val ∧ t.din[k.val] = v)

/-- Derived from 10_state.md R23: `DOUT` is written only by the finish step of a block command. -/
def Obligations.DoutWrittenOnlyByFinish : Prop :=
  ∀ s t : State, step s = .next t → s.pending.head? ≠ some .reset → t.dout ≠ s.dout →
    (s.phase = .enc ∨ s.phase = .dec) ∧ t.phase = .idle ∧ t.doutValid = true

/-- Derived from 10_state.md R24: `CHAIN` is written only by `LOADIV` and by the finish step of a CBC command. -/
def Obligations.ChainWrittenOnlyByLoadivAndCbc : Prop :=
  ∀ s t : State, step s = .next t → s.pending.head? ≠ some .reset → t.chain ≠ s.chain →
    (∃ rest, s.pending = .write 0x000 0x20 :: rest ∧ t.chain = s.din) ∨
    ((s.phase = .enc ∨ s.phase = .dec) ∧ s.opmode = .cbc ∧ t.phase = .idle)

/-- Derived from 10_state.md R25, R26: `NONCE` is written only by `LOADNONCE`; `CTR` is set to 0 by it, incremented by
the finish step of a CTR command, and written by nothing else. -/
def Obligations.NonceAndCtrWriters : Prop :=
  ∀ s t : State, step s = .next t → s.pending.head? ≠ some .reset →
    (t.nonce ≠ s.nonce → ∃ rest, s.pending = .write 0x000 0x30 :: rest) ∧
    (t.ctr ≠ s.ctr →
      (∃ rest, s.pending = .write 0x000 0x30 :: rest ∧ t.ctr = 0) ∨
      ((s.phase = .enc ∨ s.phase = .dec) ∧ s.opmode = .ctr ∧ t.phase = .idle ∧ t.ctr = s.ctr + 1))

/-- Derived from 10_state.md R28: `RK` is written only by `KX` steps, one Word a step. -/
def Obligations.RoundKeysWrittenOnlyByKeyExpansion : Prop :=
  ∀ s t : State, step s = .next t → s.pending.head? ≠ some .reset →
    ∀ i : Fin 60, t.rk[i.val] ≠ s.rk[i.val] → s.phase = .kx ∧ i.val = s.widx.val ∧ t.widx.val = s.widx.val + 1

/-- Derived from 10_state.md R29: `PHASE` leaves `IDLE` only at acceptance of a `KEYEXP` or a block command. -/
def Obligations.PhaseLeavesIdleOnlyAtAcceptance : Prop :=
  ∀ s t : State, step s = .next t → s.phase = .idle → t.phase ≠ .idle →
    s.err = false ∧ ∃ v rest, s.pending = .write 0x000 v :: rest ∧
      ((t.phase = .kx ∧ (v = 0x10 ∨ v = 0x11 ∨ v = 0x12)) ∨
       (s.kvalid = true ∧ ∃ i, decode v = .ok i ∧ isBlockCommand i = true ∧
          t.phase = if i = .ecbDec ∨ i = .cbcDec then .dec else .enc))

/-- Derived from 10_state.md R36: what sets and clears `KVALID`, `DOUT_VALID` and `CTR_OVF`. -/
def Obligations.FlagsChangeOnlyAsListed : Prop :=
  ∀ s t : State, step s = .next t → s.pending.head? ≠ some .reset →
    (s.kvalid = false → t.kvalid = true → s.phase = .kx ∧ t.phase = .idle) ∧
    (s.kvalid = true → t.kvalid = false →
      ∃ v rest, s.pending = .write 0x000 v :: rest ∧ (v = 0x10 ∨ v = 0x11 ∨ v = 0x12)) ∧
    (s.doutValid = false → t.doutValid = true → (s.phase = .enc ∨ s.phase = .dec) ∧ t.phase = .idle) ∧
    (s.doutValid = true → t.doutValid = false → s.phase = .idle ∧ (t.phase = .enc ∨ t.phase = .dec)) ∧
    (s.ctrOvf = false → t.ctrOvf = true →
      (s.phase = .enc ∨ s.phase = .dec) ∧ s.opmode = .ctr ∧ t.phase = .idle ∧ s.ctr.toNat = 2 ^ 64 - 1 ∧ t.ctr = 0) ∧
    (s.ctrOvf = true → t.ctrOvf = false →
      (∃ rest, s.pending = .write 0x000 0x30 :: rest) ∨
      ((s.phase = .enc ∨ s.phase = .dec) ∧ s.opmode = .ctr ∧ t.phase = .idle))

/-! ### Reset, the invariant, progress -/

/-- Derived from 70_reset_and_hazards.md R320, 60_exceptions.md R300: reset in any state. `RK` is open (R321; log 3),
and the host's own turns and replies stay (logs 1, 2). -/
def Obligations.ResetFromAnyState : Prop :=
  ∀ (s : State) (rest : List Turn), s.pending = .reset :: rest →
    ∃ rk draws, step s =
      .next { key := zeroBytes 32, din := zeroBytes 16, dout := zeroBytes 16, chain := zeroBytes 16,
              nonce := zeroBytes 8, ctr := 0, sreg := zeroBytes 16, rk := rk, phase := .idle, widx := 0, rnd := 0,
              opmode := .ecb, opdir := .encrypt, oplen := 0, klen := .k128, kvalid := false, doutValid := false,
              err := false, ctrOvf := false, errcode := 0, errinfo := 0,
              pending := rest, replies := s.replies, draws := draws }

/-- Derived from 10_state.md R39: `STATUS`, `CONFIG` and every address outside `RK` read `0x00` after reset. -/
def Obligations.ResetWindowReadsZero : Prop :=
  ∀ a : Addr, ¬ (0x100 ≤ a.toNat ∧ a.toNat ≤ 0x1EF) → readByte State.reset a = 0x00

/-- Derived from 10_state.md R39, R40: the invariant holds after reset. -/
def Obligations.ResetMeetsInvariant : Prop := Inv State.reset

/-- Derived from 10_state.md R40: every transition keeps the invariant. -/
def Obligations.StepKeepsInvariant : Prop :=
  ∀ s t : State, Inv s → step s = .next t → Inv t

/-- Derived from 10_state.md R40, 60_exceptions.md R294: in a state of the invariant the machine never stops. -/
def Obligations.InvariantStatesNeverStop : Prop :=
  ∀ s : State, Inv s → ∃ t, step s = .next t

/-- Derived from 70_reset_and_hazards.md R336: the operation in flight ends after exactly the steps it has left, and not
before. -/
def Obligations.OperationEndsAfterItsSteps : Prop :=
  ∀ s : State, Inv s →
    (∃ t, blockRun (stepsLeft s) s = .next t ∧ t.busy = false) ∧
    (∀ n, n < stepsLeft s → ∃ t, blockRun n s = .next t ∧ t.busy = true) ∧ stepsLeft s ≤ 60

/-- Derived from 20_memory.md R67, R76, R79, 42_key_expansion.md R168, 43_round_engine.md R204: while an operation runs,
host reads and writes between the block's turns change nothing of it; only the first write is recorded. -/
def Obligations.HostTurnsDoNotDisturbOperation : Prop :=
  ∀ (s u : State) (mid rest : List Turn), s.pending = mid ++ rest → Turn.reset ∉ mid →
    blockRun (mid.count .engine) s = .next u → u.busy = true →
    ∃ replies draws, Sys2Proof.core.run mid.length s =
      .next { u with
        err := s.err || (firstWrite mid).isSome
        errcode := if s.err || !(firstWrite mid).isSome then s.errcode else 0x07
        errinfo := if s.err then s.errinfo else (firstWrite mid).getD s.errinfo
        pending := rest, replies := replies, draws := draws }

/-- Derived from 10_state.md R27, R29, R30, R38: states that differ only in leftovers stay so and answer the host alike.
-/
def Obligations.LeftoversAreUnobservable : Prop :=
  ∀ s t s' : State, wipeLeftovers s = wipeLeftovers t → step s = .next s' →
    ∃ t', step t = .next t' ∧ wipeLeftovers s' = wipeLeftovers t' ∧ s'.replies = t'.replies

/-! ### Messages -/

/-- Derived from 44_mode_controller.md R246.1, R246.2, R246.3: sequences of ECB and of CBC commands compute what the
message functions say, and leave the chaining register at the last ciphertext block. -/
def Obligations.EcbAndCbcMessagesFollowRecurrences : Prop :=
  ∀ (bs : List Block) (iv : Block) (s : State), s.ready → s.kvalid = true →
    (∃ t, runMessage .ecbEnc bs s = some (bs.map (cipher s.rk.toList (nrOf s.klen).val), t) ∧ t.ready) ∧
    (∃ t, runMessage .ecbDec bs s = some (bs.map (invCipher s.rk.toList (nrOf s.klen).val), t) ∧ t.ready) ∧
    (∃ t, runCbc .cbcEnc iv bs s = some (cbcEncrypt (cipher s.rk.toList (nrOf s.klen).val) iv bs, t) ∧
      t.ready ∧ t.chain = (cbcEncrypt (cipher s.rk.toList (nrOf s.klen).val) iv bs).getLastD iv) ∧
    (∃ t, runCbc .cbcDec iv bs s = some (cbcDecrypt (invCipher s.rk.toList (nrOf s.klen).val) iv bs, t) ∧
      t.ready ∧ t.chain = bs.getLastD iv)

/-- Derived from 44_mode_controller.md R246.4: a sequence of CTR commands XORs the keystream of the counters 0, 1, …,
the last block truncated, and leaves the counter at the number of commands. -/
def Obligations.CtrMessageFollowsCounter : Prop :=
  ∀ (bs : List Block) (tail : Option (BitVec 4 × Block)) (nonce : Block) (dir : Bool) (s : State),
    s.ready → s.kvalid = true → (∀ n b, tail = some (n, b) → n ≠ 0) →
    bs.length + (if tail.isSome then 1 else 0) < 2 ^ 64 →
    ∃ t, runCtr nonce dir bs tail s =
        some (ctrProcess (cipher s.rk.toList (nrOf s.klen).val) (dinNonce nonce) 0 bs,
          tail.map fun p => (p.1, keepFirst p.1.toNat (xorBytes p.2
            (cipher s.rk.toList (nrOf s.klen).val (counterBlock (dinNonce nonce) (BitVec.ofNat 64 bs.length))))), t) ∧
      t.ready ∧ t.ctr.toNat = bs.length + (if tail.isSome then 1 else 0) ∧ t.ctrOvf = false

/-- Derived from 44_mode_controller.md R247: in each mode, deciphering what was enciphered, from the same `iv` or nonce,
gives the message back; in CTR at every length, and with every value of the ignored direction bit. -/
def Obligations.ModeRoundTrip : Prop :=
  ∀ (bs : List Block) (s : State), s.ready → s.kvalid = true →
    (∃ cs t u, runMessage .ecbEnc bs s = some (cs, t) ∧ runMessage .ecbDec cs t = some (bs, u)) ∧
    (∀ iv : Block, ∃ cs t u, runCbc .cbcEnc iv bs s = some (cs, t) ∧ runCbc .cbcDec iv cs t = some (bs, u)) ∧
    (∀ (nonce : Block) (dir dir' : Bool), bs.length < 2 ^ 64 →
      (∃ cs t u, runCtr nonce dir bs none s = some (cs, none, t) ∧ runCtr nonce dir' cs none t = some (bs, none, u)) ∧
      ∀ (n : BitVec 4) (b : Block), n ≠ 0 →
        ∃ cs c t u, runCtr nonce dir bs (some (n, b)) s = some (cs, some (n, c), t) ∧
          runCtr nonce dir' cs (some (n, c)) t = some (bs, some (n, keepFirst n.toNat b), u))

/-- Derived from 44_mode_controller.md R250: under one schedule, different counter blocks give different keystream
blocks. -/
def Obligations.KeystreamNeverRepeats : Prop :=
  ∀ (w : Schedule) (kl : KeyLen) (n₁ n₂ : Vector Byte 8) (c₁ c₂ : BitVec 64),
    cipher w (nrOf kl).val (counterBlock n₁ c₁) = cipher w (nrOf kl).val (counterBlock n₂ c₂) → n₁ = n₂ ∧ c₁ = c₂

/-- Derived from 44_mode_controller.md R248, R249: an ECB result depends on the block and the schedule alone; a change
of `CHAIN` by XOR with `d` changes a CBC decryption by XOR with exactly `d`; and a CBC encryption depends on `DIN ^
CHAIN` only. -/
def Obligations.ResultDependsOnlyOnItsInputs : Prop :=
  ∀ (s t : State) (b b' : Block), s.ready → t.ready → s.kvalid = true → t.kvalid = true → s.klen = t.klen →
    s.rk.toList.take (nwOf s.klen) = t.rk.toList.take (nwOf s.klen) →
    (∃ c s' t', runBlock .ecbEnc b s = some (c, s') ∧ runBlock .ecbEnc b t = some (c, t')) ∧
    (∃ c s' t', runBlock .ecbDec b s = some (c, s') ∧ runBlock .ecbDec b t = some (c, t')) ∧
    (∃ c s' t', runBlock .cbcDec b s = some (c, s') ∧
      runBlock .cbcDec b t = some (xorBytes c (xorBytes s.chain t.chain), t')) ∧
    (xorBytes b s.chain = xorBytes b' t.chain →
      ∃ c s' t', runBlock .cbcEnc b s = some (c, s') ∧ runBlock .cbcEnc b' t = some (c, t'))
end

