-- ==== Sys2Proof/Laws/Arith.lean ====
section
/-! SUPPORT. Bytes as vectors over two elements: `xtimes` and `gf_mult` are additive, an additive map of bytes is fixed by
its eight values at the single bits, and what each bytewise operation gives at one index. -/

namespace Sys2Proof.Machine

/-! ### Additivity -/

theorem xtimes_xor (a b : Byte) : xtimes (a ^^^ b) = xtimes a ^^^ xtimes b := by
  have cancel : ∀ x y : Byte, (x ^^^ 0x1B) ^^^ (y ^^^ 0x1B) = x ^^^ y := fun x y => by
    rw [BitVec.xor_assoc, BitVec.xor_comm y, ← BitVec.xor_assoc 0x1B, BitVec.xor_self, BitVec.zero_xor]
  unfold xtimes
  rw [BitVec.getLsbD_xor]
  cases a.getLsbD 7 <;> cases b.getLsbD 7 <;>
    simp only [BitVec.shiftLeft_xor_distrib, cancel, Bool.xor_false, Bool.xor_true, Bool.not_false, Bool.not_true,
      if_true, if_false, Bool.false_eq_true] <;> ac_rfl

theorem xtimesIter_xor (a b : Byte) (i : Nat) : xtimesIter (a ^^^ b) i = xtimesIter a i ^^^ xtimesIter b i := by
  induction i with
  | zero => rfl
  | succ i ih => simp [xtimesIter, ih, xtimes_xor]

/-- `t` if the bit is set, else zero: one term of `gf_mult`. -/
def bitTerm (c : Bool) (t : Byte) : Byte := if c then t else 0

theorem bitTerm_xor (c : Bool) (s t : Byte) : bitTerm c (s ^^^ t) = bitTerm c s ^^^ bitTerm c t := by
  cases c <;> simp [bitTerm]

theorem bitTerm_xor_bit (b c : Bool) (t : Byte) : bitTerm (b ^^ c) t = bitTerm b t ^^^ bitTerm c t := by
  cases b <;> cases c <;> simp [bitTerm]

/-- `gf_mult` as the sum of its eight terms. -/
theorem gfMult_eq_terms (a c : Byte) :
    gfMult a c =
      bitTerm (c.getLsbD 0) (xtimesIter a 0) ^^^ bitTerm (c.getLsbD 1) (xtimesIter a 1) ^^^
      bitTerm (c.getLsbD 2) (xtimesIter a 2) ^^^ bitTerm (c.getLsbD 3) (xtimesIter a 3) ^^^
      bitTerm (c.getLsbD 4) (xtimesIter a 4) ^^^ bitTerm (c.getLsbD 5) (xtimesIter a 5) ^^^
      bitTerm (c.getLsbD 6) (xtimesIter a 6) ^^^ bitTerm (c.getLsbD 7) (xtimesIter a 7) := by
  have h : ∀ (acc t : Byte) (b : Bool), (if b then gfAdd acc t else acc) = acc ^^^ bitTerm b t := fun acc t b => by
    cases b <;> simp [bitTerm, gfAdd]
  simp only [gfMult, h]
  simp [List.range, List.range.loop]

theorem gfMult_xor_left (a b c : Byte) : gfMult (a ^^^ b) c = gfMult a c ^^^ gfMult b c := by
  simp only [gfMult_eq_terms, xtimesIter_xor, bitTerm_xor]
  ac_rfl

/-! ### Additive maps -/

/-- A byte as the sum of its bits. -/
theorem byte_eq_sum_of_bits (x : Byte) :
    x = (List.range 8).foldl (fun acc i => if x.getLsbD i then acc ^^^ (1#8 <<< i) else acc) 0 := by
  revert x
  decide +kernel

/-- Two additive maps of bytes that agree on the eight single bits are equal. -/
theorem additive_ext (f g : Byte → Byte) (hf : ∀ x y, f (x ^^^ y) = f x ^^^ f y)
    (hg : ∀ x y, g (x ^^^ y) = g x ^^^ g y) (h : ∀ i, i < 8 → f (1#8 <<< i) = g (1#8 <<< i)) (x : Byte) : f x = g x := by
  have f0 : f 0 = 0 := by have := hf 0 0; simpa using this
  have g0 : g 0 = 0 := by have := hg 0 0; simpa using this
  have fold : ∀ (l : List Nat) (acc : Byte), (∀ i ∈ l, i < 8) → f acc = g acc →
      f (l.foldl (fun acc i => if x.getLsbD i then acc ^^^ (1#8 <<< i) else acc) acc) =
      g (l.foldl (fun acc i => if x.getLsbD i then acc ^^^ (1#8 <<< i) else acc) acc) := by
    intro l
    induction l with
    | nil => exact fun _ _ ha => ha
    | cons i l ih =>
      intro acc hl ha
      refine ih _ (fun j hj => hl j (List.mem_cons_of_mem _ hj)) ?_
      by_cases hb : x.getLsbD i = true
      · simp only [hb, if_true, hf, hg, ha, h i (hl i List.mem_cons_self)]
      · simp only [hb, if_false, ha, Bool.false_eq_true]
  rw [byte_eq_sum_of_bits x]
  exact fold _ _ (fun i hi => List.mem_range.mp hi) (by rw [f0, g0])

/-! ### One byte of a bytewise operation -/

@[simp] theorem getElem_xorBytes {n : Nat} (a b : Vector Byte n) (k : Nat) (hk : k < n) :
    (xorBytes a b)[k] = a[k] ^^^ b[k] := by
  simp [xorBytes, gfAdd]

@[simp] theorem getElem_subBytes (s : Block) (k : Nat) (hk : k < 16) : (subBytes s)[k] = sbox s[k] := by
  simp [subBytes]

@[simp] theorem getElem_invSubBytes (s : Block) (k : Nat) (hk : k < 16) : (invSubBytes s)[k] = invSbox s[k] := by
  simp [invSubBytes]

theorem getElem_mulColumns (m : Vector (Vector Byte 4) 4) (s : Block) (k : Nat) (hk : k < 16) :
    (mulColumns m s)[k] =
      gfAdd
        (gfAdd (gfMult m[k % 4][0] s[4 * (k / 4)]) (gfMult m[k % 4][1] s[4 * (k / 4) + 1]))
        (gfAdd (gfMult m[k % 4][2] s[4 * (k / 4) + 2]) (gfMult m[k % 4][3] s[4 * (k / 4) + 3])) := by
  simp [mulColumns]

/-- XOR with the same Block twice is nothing. -/
theorem xorBytes_cancel {n : Nat} (a b : Vector Byte n) : xorBytes (xorBytes a b) b = a := by
  ext k hk
  simp

end Sys2Proof.Machine
end

