-- ==== Sys2Proof/Laws/State.lean ====
section
/-! SUPPORT. One lemma per field for each named update of the state, so that no proof unfolds a record update. -/

namespace Sys2Proof.Machine

/-! ### `clearErr` -/

@[simp] theorem clearErr_key (s : State) : (clearErr s).key = s.key := rfl
@[simp] theorem clearErr_din (s : State) : (clearErr s).din = s.din := rfl
@[simp] theorem clearErr_dout (s : State) : (clearErr s).dout = s.dout := rfl
@[simp] theorem clearErr_chain (s : State) : (clearErr s).chain = s.chain := rfl
@[simp] theorem clearErr_nonce (s : State) : (clearErr s).nonce = s.nonce := rfl
@[simp] theorem clearErr_ctr (s : State) : (clearErr s).ctr = s.ctr := rfl
@[simp] theorem clearErr_sreg (s : State) : (clearErr s).sreg = s.sreg := rfl
@[simp] theorem clearErr_rk (s : State) : (clearErr s).rk = s.rk := rfl
@[simp] theorem clearErr_phase (s : State) : (clearErr s).phase = s.phase := rfl
@[simp] theorem clearErr_widx (s : State) : (clearErr s).widx = s.widx := rfl
@[simp] theorem clearErr_rnd (s : State) : (clearErr s).rnd = s.rnd := rfl
@[simp] theorem clearErr_opmode (s : State) : (clearErr s).opmode = s.opmode := rfl
@[simp] theorem clearErr_opdir (s : State) : (clearErr s).opdir = s.opdir := rfl
@[simp] theorem clearErr_oplen (s : State) : (clearErr s).oplen = s.oplen := rfl
@[simp] theorem clearErr_klen (s : State) : (clearErr s).klen = s.klen := rfl
@[simp] theorem clearErr_kvalid (s : State) : (clearErr s).kvalid = s.kvalid := rfl
@[simp] theorem clearErr_doutValid (s : State) : (clearErr s).doutValid = s.doutValid := rfl
@[simp] theorem clearErr_err (s : State) : (clearErr s).err = false := rfl
@[simp] theorem clearErr_ctrOvf (s : State) : (clearErr s).ctrOvf = s.ctrOvf := rfl
@[simp] theorem clearErr_errcode (s : State) : (clearErr s).errcode = 0 := rfl
@[simp] theorem clearErr_errinfo (s : State) : (clearErr s).errinfo = 0 := rfl
@[simp] theorem clearErr_pending (s : State) : (clearErr s).pending = s.pending := rfl
@[simp] theorem clearErr_replies (s : State) : (clearErr s).replies = s.replies := rfl
@[simp] theorem clearErr_draws (s : State) : (clearErr s).draws = s.draws := rfl

/-! ### `loadChain` -/

@[simp] theorem loadChain_key (s : State) : (loadChain s).key = s.key := rfl
@[simp] theorem loadChain_din (s : State) : (loadChain s).din = s.din := rfl
@[simp] theorem loadChain_dout (s : State) : (loadChain s).dout = s.dout := rfl
@[simp] theorem loadChain_chain (s : State) : (loadChain s).chain = s.din := rfl
@[simp] theorem loadChain_nonce (s : State) : (loadChain s).nonce = s.nonce := rfl
@[simp] theorem loadChain_ctr (s : State) : (loadChain s).ctr = s.ctr := rfl
@[simp] theorem loadChain_sreg (s : State) : (loadChain s).sreg = s.sreg := rfl
@[simp] theorem loadChain_rk (s : State) : (loadChain s).rk = s.rk := rfl
@[simp] theorem loadChain_phase (s : State) : (loadChain s).phase = s.phase := rfl
@[simp] theorem loadChain_widx (s : State) : (loadChain s).widx = s.widx := rfl
@[simp] theorem loadChain_rnd (s : State) : (loadChain s).rnd = s.rnd := rfl
@[simp] theorem loadChain_opmode (s : State) : (loadChain s).opmode = s.opmode := rfl
@[simp] theorem loadChain_opdir (s : State) : (loadChain s).opdir = s.opdir := rfl
@[simp] theorem loadChain_oplen (s : State) : (loadChain s).oplen = s.oplen := rfl
@[simp] theorem loadChain_klen (s : State) : (loadChain s).klen = s.klen := rfl
@[simp] theorem loadChain_kvalid (s : State) : (loadChain s).kvalid = s.kvalid := rfl
@[simp] theorem loadChain_doutValid (s : State) : (loadChain s).doutValid = s.doutValid := rfl
@[simp] theorem loadChain_err (s : State) : (loadChain s).err = s.err := rfl
@[simp] theorem loadChain_ctrOvf (s : State) : (loadChain s).ctrOvf = s.ctrOvf := rfl
@[simp] theorem loadChain_errcode (s : State) : (loadChain s).errcode = s.errcode := rfl
@[simp] theorem loadChain_errinfo (s : State) : (loadChain s).errinfo = s.errinfo := rfl
@[simp] theorem loadChain_pending (s : State) : (loadChain s).pending = s.pending := rfl
@[simp] theorem loadChain_replies (s : State) : (loadChain s).replies = s.replies := rfl
@[simp] theorem loadChain_draws (s : State) : (loadChain s).draws = s.draws := rfl

/-! ### `loadNonce` -/

@[simp] theorem loadNonce_key (s : State) : (loadNonce s).key = s.key := rfl
@[simp] theorem loadNonce_din (s : State) : (loadNonce s).din = s.din := rfl
@[simp] theorem loadNonce_dout (s : State) : (loadNonce s).dout = s.dout := rfl
@[simp] theorem loadNonce_chain (s : State) : (loadNonce s).chain = s.chain := rfl
@[simp] theorem loadNonce_nonce (s : State) : (loadNonce s).nonce = dinNonce s.din := rfl
@[simp] theorem loadNonce_ctr (s : State) : (loadNonce s).ctr = 0 := rfl
@[simp] theorem loadNonce_sreg (s : State) : (loadNonce s).sreg = s.sreg := rfl
@[simp] theorem loadNonce_rk (s : State) : (loadNonce s).rk = s.rk := rfl
@[simp] theorem loadNonce_phase (s : State) : (loadNonce s).phase = s.phase := rfl
@[simp] theorem loadNonce_widx (s : State) : (loadNonce s).widx = s.widx := rfl
@[simp] theorem loadNonce_rnd (s : State) : (loadNonce s).rnd = s.rnd := rfl
@[simp] theorem loadNonce_opmode (s : State) : (loadNonce s).opmode = s.opmode := rfl
@[simp] theorem loadNonce_opdir (s : State) : (loadNonce s).opdir = s.opdir := rfl
@[simp] theorem loadNonce_oplen (s : State) : (loadNonce s).oplen = s.oplen := rfl
@[simp] theorem loadNonce_klen (s : State) : (loadNonce s).klen = s.klen := rfl
@[simp] theorem loadNonce_kvalid (s : State) : (loadNonce s).kvalid = s.kvalid := rfl
@[simp] theorem loadNonce_doutValid (s : State) : (loadNonce s).doutValid = s.doutValid := rfl
@[simp] theorem loadNonce_err (s : State) : (loadNonce s).err = s.err := rfl
@[simp] theorem loadNonce_ctrOvf (s : State) : (loadNonce s).ctrOvf = false := rfl
@[simp] theorem loadNonce_errcode (s : State) : (loadNonce s).errcode = s.errcode := rfl
@[simp] theorem loadNonce_errinfo (s : State) : (loadNonce s).errinfo = s.errinfo := rfl
@[simp] theorem loadNonce_pending (s : State) : (loadNonce s).pending = s.pending := rfl
@[simp] theorem loadNonce_replies (s : State) : (loadNonce s).replies = s.replies := rfl
@[simp] theorem loadNonce_draws (s : State) : (loadNonce s).draws = s.draws := rfl

/-! ### `keyexpAccept` -/

@[simp] theorem keyexpAccept_key (kl : KeyLen) (s : State) : (keyexpAccept kl s).key = s.key := rfl
@[simp] theorem keyexpAccept_din (kl : KeyLen) (s : State) : (keyexpAccept kl s).din = s.din := rfl
@[simp] theorem keyexpAccept_dout (kl : KeyLen) (s : State) : (keyexpAccept kl s).dout = s.dout := rfl
@[simp] theorem keyexpAccept_chain (kl : KeyLen) (s : State) : (keyexpAccept kl s).chain = s.chain := rfl
@[simp] theorem keyexpAccept_nonce (kl : KeyLen) (s : State) : (keyexpAccept kl s).nonce = s.nonce := rfl
@[simp] theorem keyexpAccept_ctr (kl : KeyLen) (s : State) : (keyexpAccept kl s).ctr = s.ctr := rfl
@[simp] theorem keyexpAccept_sreg (kl : KeyLen) (s : State) : (keyexpAccept kl s).sreg = s.sreg := rfl
@[simp] theorem keyexpAccept_rk (kl : KeyLen) (s : State) : (keyexpAccept kl s).rk = s.rk := rfl
@[simp] theorem keyexpAccept_phase (kl : KeyLen) (s : State) : (keyexpAccept kl s).phase = .kx := rfl
@[simp] theorem keyexpAccept_widx (kl : KeyLen) (s : State) : (keyexpAccept kl s).widx = 0 := rfl
@[simp] theorem keyexpAccept_rnd (kl : KeyLen) (s : State) : (keyexpAccept kl s).rnd = s.rnd := rfl
@[simp] theorem keyexpAccept_opmode (kl : KeyLen) (s : State) : (keyexpAccept kl s).opmode = s.opmode := rfl
@[simp] theorem keyexpAccept_opdir (kl : KeyLen) (s : State) : (keyexpAccept kl s).opdir = s.opdir := rfl
@[simp] theorem keyexpAccept_oplen (kl : KeyLen) (s : State) : (keyexpAccept kl s).oplen = s.oplen := rfl
@[simp] theorem keyexpAccept_klen (kl : KeyLen) (s : State) : (keyexpAccept kl s).klen = kl := rfl
@[simp] theorem keyexpAccept_kvalid (kl : KeyLen) (s : State) : (keyexpAccept kl s).kvalid = false := rfl
@[simp] theorem keyexpAccept_doutValid (kl : KeyLen) (s : State) : (keyexpAccept kl s).doutValid = s.doutValid := rfl
@[simp] theorem keyexpAccept_err (kl : KeyLen) (s : State) : (keyexpAccept kl s).err = s.err := rfl
@[simp] theorem keyexpAccept_ctrOvf (kl : KeyLen) (s : State) : (keyexpAccept kl s).ctrOvf = s.ctrOvf := rfl
@[simp] theorem keyexpAccept_errcode (kl : KeyLen) (s : State) : (keyexpAccept kl s).errcode = s.errcode := rfl
@[simp] theorem keyexpAccept_errinfo (kl : KeyLen) (s : State) : (keyexpAccept kl s).errinfo = s.errinfo := rfl
@[simp] theorem keyexpAccept_pending (kl : KeyLen) (s : State) : (keyexpAccept kl s).pending = s.pending := rfl
@[simp] theorem keyexpAccept_replies (kl : KeyLen) (s : State) : (keyexpAccept kl s).replies = s.replies := rfl
@[simp] theorem keyexpAccept_draws (kl : KeyLen) (s : State) : (keyexpAccept kl s).draws = s.draws := rfl

/-! ### `blockStart` -/

@[simp] theorem blockStart_key (m : OpMode) (d : OpDir) (n : Fin 17) (s : State) : (blockStart m d n s).key = s.key := rfl
@[simp] theorem blockStart_din (m : OpMode) (d : OpDir) (n : Fin 17) (s : State) : (blockStart m d n s).din = s.din := rfl
@[simp] theorem blockStart_dout (m : OpMode) (d : OpDir) (n : Fin 17) (s : State) : (blockStart m d n s).dout = s.dout := rfl
@[simp] theorem blockStart_chain (m : OpMode) (d : OpDir) (n : Fin 17) (s : State) : (blockStart m d n s).chain = s.chain := rfl
@[simp] theorem blockStart_nonce (m : OpMode) (d : OpDir) (n : Fin 17) (s : State) : (blockStart m d n s).nonce = s.nonce := rfl
@[simp] theorem blockStart_ctr (m : OpMode) (d : OpDir) (n : Fin 17) (s : State) : (blockStart m d n s).ctr = s.ctr := rfl
@[simp] theorem blockStart_sreg (m : OpMode) (d : OpDir) (n : Fin 17) (s : State) : (blockStart m d n s).sreg = engineInput m d s := rfl
@[simp] theorem blockStart_rk (m : OpMode) (d : OpDir) (n : Fin 17) (s : State) : (blockStart m d n s).rk = s.rk := rfl
@[simp] theorem blockStart_phase (m : OpMode) (d : OpDir) (n : Fin 17) (s : State) : (blockStart m d n s).phase = enginePhase m d := rfl
@[simp] theorem blockStart_widx (m : OpMode) (d : OpDir) (n : Fin 17) (s : State) : (blockStart m d n s).widx = s.widx := rfl
@[simp] theorem blockStart_rnd (m : OpMode) (d : OpDir) (n : Fin 17) (s : State) : (blockStart m d n s).rnd = firstRound m d s.klen := rfl
@[simp] theorem blockStart_opmode (m : OpMode) (d : OpDir) (n : Fin 17) (s : State) : (blockStart m d n s).opmode = m := rfl
@[simp] theorem blockStart_opdir (m : OpMode) (d : OpDir) (n : Fin 17) (s : State) : (blockStart m d n s).opdir = latchedDir m d := rfl
@[simp] theorem blockStart_oplen (m : OpMode) (d : OpDir) (n : Fin 17) (s : State) : (blockStart m d n s).oplen = n := rfl
@[simp] theorem blockStart_klen (m : OpMode) (d : OpDir) (n : Fin 17) (s : State) : (blockStart m d n s).klen = s.klen := rfl
@[simp] theorem blockStart_kvalid (m : OpMode) (d : OpDir) (n : Fin 17) (s : State) : (blockStart m d n s).kvalid = s.kvalid := rfl
@[simp] theorem blockStart_doutValid (m : OpMode) (d : OpDir) (n : Fin 17) (s : State) : (blockStart m d n s).doutValid = false := rfl
@[simp] theorem blockStart_err (m : OpMode) (d : OpDir) (n : Fin 17) (s : State) : (blockStart m d n s).err = s.err := rfl
@[simp] theorem blockStart_ctrOvf (m : OpMode) (d : OpDir) (n : Fin 17) (s : State) : (blockStart m d n s).ctrOvf = s.ctrOvf := rfl
@[simp] theorem blockStart_errcode (m : OpMode) (d : OpDir) (n : Fin 17) (s : State) : (blockStart m d n s).errcode = s.errcode := rfl
@[simp] theorem blockStart_errinfo (m : OpMode) (d : OpDir) (n : Fin 17) (s : State) : (blockStart m d n s).errinfo = s.errinfo := rfl
@[simp] theorem blockStart_pending (m : OpMode) (d : OpDir) (n : Fin 17) (s : State) : (blockStart m d n s).pending = s.pending := rfl
@[simp] theorem blockStart_replies (m : OpMode) (d : OpDir) (n : Fin 17) (s : State) : (blockStart m d n s).replies = s.replies := rfl
@[simp] theorem blockStart_draws (m : OpMode) (d : OpDir) (n : Fin 17) (s : State) : (blockStart m d n s).draws = s.draws := rfl

/-! ### `finish` -/

@[simp] theorem finish_key (t : Block) (s : State) : (finish t s).key = s.key := rfl
@[simp] theorem finish_din (t : Block) (s : State) : (finish t s).din = s.din := rfl
@[simp] theorem finish_dout (t : Block) (s : State) : (finish t s).dout = finishDout t s := rfl
@[simp] theorem finish_chain (t : Block) (s : State) : (finish t s).chain = finishChain t s := rfl
@[simp] theorem finish_nonce (t : Block) (s : State) : (finish t s).nonce = s.nonce := rfl
@[simp] theorem finish_ctr (t : Block) (s : State) : (finish t s).ctr = if s.opmode == .ctr then s.ctr + 1 else s.ctr := rfl
@[simp] theorem finish_sreg (t : Block) (s : State) : (finish t s).sreg = s.sreg := rfl
@[simp] theorem finish_rk (t : Block) (s : State) : (finish t s).rk = s.rk := rfl
@[simp] theorem finish_phase (t : Block) (s : State) : (finish t s).phase = .idle := rfl
@[simp] theorem finish_widx (t : Block) (s : State) : (finish t s).widx = s.widx := rfl
@[simp] theorem finish_rnd (t : Block) (s : State) : (finish t s).rnd = s.rnd := rfl
@[simp] theorem finish_opmode (t : Block) (s : State) : (finish t s).opmode = s.opmode := rfl
@[simp] theorem finish_opdir (t : Block) (s : State) : (finish t s).opdir = s.opdir := rfl
@[simp] theorem finish_oplen (t : Block) (s : State) : (finish t s).oplen = s.oplen := rfl
@[simp] theorem finish_klen (t : Block) (s : State) : (finish t s).klen = s.klen := rfl
@[simp] theorem finish_kvalid (t : Block) (s : State) : (finish t s).kvalid = s.kvalid := rfl
@[simp] theorem finish_doutValid (t : Block) (s : State) : (finish t s).doutValid = true := rfl
@[simp] theorem finish_err (t : Block) (s : State) : (finish t s).err = s.err := rfl
@[simp] theorem finish_ctrOvf (t : Block) (s : State) : (finish t s).ctrOvf = if s.opmode == .ctr then ctrWraps s.ctr else s.ctrOvf := rfl
@[simp] theorem finish_errcode (t : Block) (s : State) : (finish t s).errcode = s.errcode := rfl
@[simp] theorem finish_errinfo (t : Block) (s : State) : (finish t s).errinfo = s.errinfo := rfl
@[simp] theorem finish_pending (t : Block) (s : State) : (finish t s).pending = s.pending := rfl
@[simp] theorem finish_replies (t : Block) (s : State) : (finish t s).replies = s.replies := rfl
@[simp] theorem finish_draws (t : Block) (s : State) : (finish t s).draws = s.draws := rfl

/-! ### `hostRead` -/

@[simp] theorem hostRead_key (a : Addr) (s : State) : (hostRead a s).key = s.key := rfl
@[simp] theorem hostRead_din (a : Addr) (s : State) : (hostRead a s).din = s.din := rfl
@[simp] theorem hostRead_dout (a : Addr) (s : State) : (hostRead a s).dout = s.dout := rfl
@[simp] theorem hostRead_chain (a : Addr) (s : State) : (hostRead a s).chain = s.chain := rfl
@[simp] theorem hostRead_nonce (a : Addr) (s : State) : (hostRead a s).nonce = s.nonce := rfl
@[simp] theorem hostRead_ctr (a : Addr) (s : State) : (hostRead a s).ctr = s.ctr := rfl
@[simp] theorem hostRead_sreg (a : Addr) (s : State) : (hostRead a s).sreg = s.sreg := rfl
@[simp] theorem hostRead_rk (a : Addr) (s : State) : (hostRead a s).rk = s.rk := rfl
@[simp] theorem hostRead_phase (a : Addr) (s : State) : (hostRead a s).phase = s.phase := rfl
@[simp] theorem hostRead_widx (a : Addr) (s : State) : (hostRead a s).widx = s.widx := rfl
@[simp] theorem hostRead_rnd (a : Addr) (s : State) : (hostRead a s).rnd = s.rnd := rfl
@[simp] theorem hostRead_opmode (a : Addr) (s : State) : (hostRead a s).opmode = s.opmode := rfl
@[simp] theorem hostRead_opdir (a : Addr) (s : State) : (hostRead a s).opdir = s.opdir := rfl
@[simp] theorem hostRead_oplen (a : Addr) (s : State) : (hostRead a s).oplen = s.oplen := rfl
@[simp] theorem hostRead_klen (a : Addr) (s : State) : (hostRead a s).klen = s.klen := rfl
@[simp] theorem hostRead_kvalid (a : Addr) (s : State) : (hostRead a s).kvalid = s.kvalid := rfl
@[simp] theorem hostRead_doutValid (a : Addr) (s : State) : (hostRead a s).doutValid = s.doutValid := rfl
@[simp] theorem hostRead_err (a : Addr) (s : State) : (hostRead a s).err = s.err := rfl
@[simp] theorem hostRead_ctrOvf (a : Addr) (s : State) : (hostRead a s).ctrOvf = s.ctrOvf := rfl
@[simp] theorem hostRead_errcode (a : Addr) (s : State) : (hostRead a s).errcode = s.errcode := rfl
@[simp] theorem hostRead_errinfo (a : Addr) (s : State) : (hostRead a s).errinfo = s.errinfo := rfl
@[simp] theorem hostRead_pending (a : Addr) (s : State) : (hostRead a s).pending = s.pending := rfl
@[simp] theorem hostRead_replies (a : Addr) (s : State) : (hostRead a s).replies = (a, readByte s a) :: s.replies := rfl
@[simp] theorem hostRead_draws (a : Addr) (s : State) : (hostRead a s).draws = if s.busy && isResultAddr a then s.draws + 1 else s.draws := rfl

/-! ### `raiseErr`: the three fields of the record, and nothing else -/

@[simp] theorem raiseErr_key (c : ErrCause) (v : Byte) (s : State) : (raiseErr c v s).key = s.key := by
  unfold raiseErr; split <;> rfl
@[simp] theorem raiseErr_din (c : ErrCause) (v : Byte) (s : State) : (raiseErr c v s).din = s.din := by
  unfold raiseErr; split <;> rfl
@[simp] theorem raiseErr_dout (c : ErrCause) (v : Byte) (s : State) : (raiseErr c v s).dout = s.dout := by
  unfold raiseErr; split <;> rfl
@[simp] theorem raiseErr_chain (c : ErrCause) (v : Byte) (s : State) : (raiseErr c v s).chain = s.chain := by
  unfold raiseErr; split <;> rfl
@[simp] theorem raiseErr_nonce (c : ErrCause) (v : Byte) (s : State) : (raiseErr c v s).nonce = s.nonce := by
  unfold raiseErr; split <;> rfl
@[simp] theorem raiseErr_ctr (c : ErrCause) (v : Byte) (s : State) : (raiseErr c v s).ctr = s.ctr := by
  unfold raiseErr; split <;> rfl
@[simp] theorem raiseErr_sreg (c : ErrCause) (v : Byte) (s : State) : (raiseErr c v s).sreg = s.sreg := by
  unfold raiseErr; split <;> rfl
@[simp] theorem raiseErr_rk (c : ErrCause) (v : Byte) (s : State) : (raiseErr c v s).rk = s.rk := by
  unfold raiseErr; split <;> rfl
@[simp] theorem raiseErr_phase (c : ErrCause) (v : Byte) (s : State) : (raiseErr c v s).phase = s.phase := by
  unfold raiseErr; split <;> rfl
@[simp] theorem raiseErr_widx (c : ErrCause) (v : Byte) (s : State) : (raiseErr c v s).widx = s.widx := by
  unfold raiseErr; split <;> rfl
@[simp] theorem raiseErr_rnd (c : ErrCause) (v : Byte) (s : State) : (raiseErr c v s).rnd = s.rnd := by
  unfold raiseErr; split <;> rfl
@[simp] theorem raiseErr_opmode (c : ErrCause) (v : Byte) (s : State) : (raiseErr c v s).opmode = s.opmode := by
  unfold raiseErr; split <;> rfl
@[simp] theorem raiseErr_opdir (c : ErrCause) (v : Byte) (s : State) : (raiseErr c v s).opdir = s.opdir := by
  unfold raiseErr; split <;> rfl
@[simp] theorem raiseErr_oplen (c : ErrCause) (v : Byte) (s : State) : (raiseErr c v s).oplen = s.oplen := by
  unfold raiseErr; split <;> rfl
@[simp] theorem raiseErr_klen (c : ErrCause) (v : Byte) (s : State) : (raiseErr c v s).klen = s.klen := by
  unfold raiseErr; split <;> rfl
@[simp] theorem raiseErr_kvalid (c : ErrCause) (v : Byte) (s : State) : (raiseErr c v s).kvalid = s.kvalid := by
  unfold raiseErr; split <;> rfl
@[simp] theorem raiseErr_doutValid (c : ErrCause) (v : Byte) (s : State) : (raiseErr c v s).doutValid = s.doutValid := by
  unfold raiseErr; split <;> rfl
@[simp] theorem raiseErr_ctrOvf (c : ErrCause) (v : Byte) (s : State) : (raiseErr c v s).ctrOvf = s.ctrOvf := by
  unfold raiseErr; split <;> rfl
@[simp] theorem raiseErr_pending (c : ErrCause) (v : Byte) (s : State) : (raiseErr c v s).pending = s.pending := by
  unfold raiseErr; split <;> rfl
@[simp] theorem raiseErr_replies (c : ErrCause) (v : Byte) (s : State) : (raiseErr c v s).replies = s.replies := by
  unfold raiseErr; split <;> rfl
@[simp] theorem raiseErr_draws (c : ErrCause) (v : Byte) (s : State) : (raiseErr c v s).draws = s.draws := by
  unfold raiseErr; split <;> rfl
@[simp] theorem raiseErr_err (c : ErrCause) (v : Byte) (s : State) : (raiseErr c v s).err = true := by
  unfold raiseErr; split <;> simp_all

/-! ### `BUSY` is a view of `PHASE` -/

theorem busy_iff (s : State) : s.busy = true ↔ s.phase ≠ .idle := by simp [State.busy]

theorem not_busy_iff (s : State) : s.busy = false ↔ s.phase = .idle := by simp [State.busy]

/-- `BUSY` depends on `PHASE` only. -/
theorem busy_congr (s t : State) (h : s.phase = t.phase) : s.busy = t.busy := by simp [State.busy, h]

end Sys2Proof.Machine
end

