-- ==== Sys2Proof/Laws/Ops.lean ====
section
/-! SUPPORT. What each shared operation of Machine/Ops.lean does, case by case. -/

namespace Sys2Proof.Machine

/-! ### The error entry -/

theorem raiseErr_of_clear (c : ErrCause) (v : Byte) (s : State) (h : s.err = false) :
    raiseErr c v s = { s with err := true, errcode := causeCode c, errinfo := v } := by
  simp [raiseErr, h]

theorem raiseErr_of_set (c : ErrCause) (v : Byte) (s : State) (h : s.err = true) : raiseErr c v s = s := by
  simp [raiseErr, h]

/-! ### The tests before a command -/

theorem guarded_of_ready (v : Byte) (act : State → State) (s : State) (hb : s.busy = false) (he : s.err = false) :
    guarded v act s = act s := by
  simp [guarded, hb, he]

theorem guarded_of_err (v : Byte) (act : State → State) (s : State) (hb : s.busy = false) (he : s.err = true) :
    guarded v act s = s := by
  simp [guarded, hb, he]

theorem guarded_of_busy (v : Byte) (act : State → State) (s : State) (hb : s.busy = true) :
    guarded v act s = raiseErr .busy v s := by
  simp [guarded, hb]

theorem unlessBusy_of_idle (v : Byte) (act : State → State) (s : State) (hb : s.busy = false) :
    unlessBusy v act s = act s := by
  simp [unlessBusy, hb]

theorem unlessBusy_of_busy (v : Byte) (act : State → State) (s : State) (hb : s.busy = true) :
    unlessBusy v act s = raiseErr .busy v s := by
  simp [unlessBusy, hb]

/-! ### Acceptance of a block command -/

theorem blockAccept_of_key (v : Byte) (mode : OpMode) (dir : OpDir) (len : Fin 17) (s : State)
    (hk : s.kvalid = true) (ho : mode = .ctr → s.ctrOvf = false) :
    blockAccept v mode dir len s = blockStart mode dir len s := by
  unfold blockAccept
  rw [hk]
  cases mode <;> simp_all

theorem blockAccept_noKey (v : Byte) (mode : OpMode) (dir : OpDir) (len : Fin 17) (s : State) (hk : s.kvalid = false) :
    blockAccept v mode dir len s = raiseErr .nokey v s := by
  simp [blockAccept, hk]

theorem blockAccept_overflow (v : Byte) (dir : OpDir) (len : Fin 17) (s : State) (hk : s.kvalid = true)
    (ho : s.ctrOvf = true) : blockAccept v .ctr dir len s = raiseErr .ctrovf v s := by
  simp [blockAccept, hk, ho]

theorem ctrPartAccept_of_ne (n : BitVec 4) (s : State) (hn : n ≠ 0) :
    ctrPartAccept n s = blockAccept (encode (.ctrPart n)) .ctr .encrypt (partLen n) s := by
  unfold ctrPartAccept
  rw [if_neg (by simpa using hn)]

theorem enginePhase_cases (mode : OpMode) (dir : OpDir) : enginePhase mode dir = .enc ∨ enginePhase mode dir = .dec := by
  cases mode <;> cases dir <;> simp [enginePhase, latchedDir]

/-! ### The counter -/

theorem ctrWraps_iff (c : BitVec 64) : ctrWraps c = true ↔ c.toNat = 2 ^ 64 - 1 := by
  unfold ctrWraps
  rw [beq_iff_eq, ← BitVec.toNat_inj]
  simp

theorem ctrWraps_eq_decide (c : BitVec 64) : ctrWraps c = decide (c.toNat = 2 ^ 64 - 1) := by
  rw [Bool.eq_iff_iff, ctrWraps_iff]
  simp

/-- Only a CBC operation writes `CHAIN` at its finish. -/
theorem finishChain_eq_of_ne_cbc (t : Block) (s : State) (h : s.opmode ≠ .cbc) : finishChain t s = s.chain := by
  unfold finishChain
  cases hm : s.opmode <;> simp_all

end Sys2Proof.Machine
end

