-- ==== Sys2Proof/Laws/Effects.lean ====
section
/-! SUPPORT. Everything a transition can do, said once: of a command, of the block's own step, of a turn. A lemma about all
transitions takes its cases from here and unfolds nothing. -/

namespace Sys2Proof.Machine

/-! ### A command, executed while `BUSY = 0` -/

/-- All that a byte `v` written to `CMD` can make of an idle state `s`. -/
inductive CommandEffect (v : Byte) (s : State) : State → Prop where
  /-- `NOP`, or ignored in fault-stop. -/
  | nothing : CommandEffect v s s
  /-- Rejected. -/
  | error (c : ErrCause) (he : s.err = false) :
      CommandEffect v s { s with err := true, errcode := causeCode c, errinfo := v }
  /-- `CLRERR`. -/
  | clear (hv : v = 0x60) : CommandEffect v s { s with err := false, errcode := 0, errinfo := 0 }
  /-- `LOADIV`. -/
  | loadiv (he : s.err = false) (hv : v = 0x20) : CommandEffect v s { s with chain := s.din }
  /-- `LOADNONCE`. -/
  | loadnonce (he : s.err = false) (hv : v = 0x30) :
      CommandEffect v s { s with nonce := dinNonce s.din, ctr := 0, ctrOvf := false }
  /-- `KEYEXP`, accepted. -/
  | keyexp (kl : KeyLen) (he : s.err = false) (hv : v = encode (keyexpOf kl)) :
      CommandEffect v s { s with klen := kl, kvalid := false, widx := 0, phase := .kx }
  /-- A block command, accepted. -/
  | block (i : Instr) (mode : OpMode) (dir : OpDir) (len : Fin 17) (he : s.err = false) (hk : s.kvalid = true)
      (ho : mode = .ctr → s.ctrOvf = false) (hd : decode v = .ok i) (hi : isBlockCommand i = true)
      (hl : 1 ≤ len.val) (hl' : mode ≠ .ctr → len = 16) (hp : enginePhase mode dir = .dec ↔ i = .ecbDec ∨ i = .cbcDec) :
      CommandEffect v s (blockStart mode dir len s)

theorem blockAccept_effect (v : Byte) (mode : OpMode) (dir : OpDir) (len : Fin 17) (s : State) (he : s.err = false)
    (i : Instr) (hd : decode v = .ok i) (hi : isBlockCommand i = true) (hl : 1 ≤ len.val) (hl' : mode ≠ .ctr → len = 16)
    (hp : enginePhase mode dir = .dec ↔ i = .ecbDec ∨ i = .cbcDec) :
    CommandEffect v s (blockAccept v mode dir len s) := by
  cases hk : s.kvalid with
  | false => rw [blockAccept_noKey _ _ _ _ _ hk, raiseErr_of_clear _ _ _ he]; exact .error _ he
  | true =>
    by_cases ho : mode = .ctr ∧ s.ctrOvf = true
    · obtain ⟨rfl, ho⟩ := ho
      rw [blockAccept_overflow _ _ _ _ hk ho, raiseErr_of_clear _ _ _ he]
      exact .error _ he
    · have ho : mode = .ctr → s.ctrOvf = false := fun hm => by simpa [hm] using ho
      rw [blockAccept_of_key _ _ _ _ _ hk ho]
      exact .block i mode dir len he hk ho hd hi hl hl' hp

theorem guarded_effect (v : Byte) (act : State → State) (s : State) (hb : s.busy = false)
    (h : s.err = false → CommandEffect v s (act s)) : CommandEffect v s (guarded v act s) := by
  cases he : s.err with
  | true => rw [guarded_of_err _ _ _ hb he]; exact .nothing
  | false => rw [guarded_of_ready _ _ _ hb he]; exact h he

/-- What `Execute` can do while `BUSY = 0`. -/
theorem execute_effect (v : Byte) (s t : State) (hb : s.busy = false) (h : execute v s = .next t) :
    CommandEffect v s t := by
  have codes : ∀ v : Byte, (match decode v with
      | .ok i => i.wf && encode i == v
      | .error _ => true) = true := by decide +kernel
  have hc := codes v
  unfold execute at h
  cases hd : decode v with
  | error c =>
    rw [hd] at h
    cases h
    exact guarded_effect v _ s hb fun he => by rw [raiseErr_of_clear _ _ _ he]; exact .error c he
  | ok i =>
    rw [hd] at h hc
    simp only [Bool.and_eq_true, beq_iff_eq] at h hc
    obtain ⟨hw, rfl⟩ := hc
    cases i with
    | nop => cases h; rw [unlessBusy_of_idle _ _ _ hb]; exact .nothing
    | clrerr => cases h; rw [unlessBusy_of_idle _ _ _ hb]; exact .clear rfl
    | keyexp128 => cases h; exact guarded_effect _ _ s hb fun he => .keyexp .k128 he rfl
    | keyexp192 => cases h; exact guarded_effect _ _ s hb fun he => .keyexp .k192 he rfl
    | keyexp256 => cases h; exact guarded_effect _ _ s hb fun he => .keyexp .k256 he rfl
    | loadiv => cases h; exact guarded_effect _ _ s hb fun he => .loadiv he rfl
    | loadnonce => cases h; exact guarded_effect _ _ s hb fun he => .loadnonce he rfl
    | ecbEnc =>
      cases h
      exact guarded_effect _ _ s hb fun he => blockAccept_effect _ _ _ _ s he _ hd rfl (by decide) (by decide) (by decide)
    | cbcEnc =>
      cases h
      exact guarded_effect _ _ s hb fun he => blockAccept_effect _ _ _ _ s he _ hd rfl (by decide) (by decide) (by decide)
    | ecbDec =>
      cases h
      exact guarded_effect _ _ s hb fun he => blockAccept_effect _ _ _ _ s he _ hd rfl (by decide) (by decide) (by decide)
    | cbcDec =>
      cases h
      exact guarded_effect _ _ s hb fun he => blockAccept_effect _ _ _ _ s he _ hd rfl (by decide) (by decide) (by decide)
    | ctrBlk dir =>
      cases h
      exact guarded_effect _ _ s hb fun he =>
        blockAccept_effect _ _ _ _ s he _ hd rfl (by decide) (by decide) (by simp [enginePhase, latchedDir])
    | ctrPart n =>
      have hn : n ≠ 0 := by simpa [Instr.wf] using hw
      cases h
      refine guarded_effect _ _ s hb fun he => ?_
      rw [ctrPartAccept_of_ne n s hn]
      refine blockAccept_effect _ _ _ _ s he _ hd rfl ?_ (fun hm => absurd rfl hm) (by simp [enginePhase, latchedDir])
      show 1 ≤ n.toNat
      have : n.toNat ≠ 0 := fun h0 => hn (BitVec.eq_of_toNat_eq h0)
      omega

/-! ### The block's own step -/

/-- All that the block's step can make of `s`. -/
inductive BlockEffect (s : State) : State → Prop where
  /-- No step. -/
  | idle (hp : s.phase = .idle) : BlockEffect s s
  /-- One Word of the schedule. -/
  | kx (hp : s.phase = .kx) (hw : s.widx.val < nwOf s.klen) (rk : Vector Word 60) (widx : Fin 61) (kvalid : Bool)
      (phase : Phase)
      (hrk : rk = s.rk.set s.widx.val (kxWord s.rk.toList s.key s.widx.val (nkOf s.klen))
        (Nat.lt_of_lt_of_le hw (nwOf_le _)))
      (hwi : widx.val = s.widx.val + 1)
      (hkv : kvalid = if s.widx.val + 1 = nwOf s.klen then true else s.kvalid)
      (hph : phase = if s.widx.val + 1 = nwOf s.klen then .idle else .kx) :
      BlockEffect s { s with rk := rk, widx := widx, kvalid := kvalid, phase := phase }
  /-- A round of the forward cipher, not the last. -/
  | encMiddle (hp : s.phase = .enc) (hr : s.rnd.val < (nrOf s.klen).val) (r : Fin 15) (hr' : r.val = s.rnd.val + 1) :
      BlockEffect s { s with sreg := encRound s.sreg s.rk.toList s.rnd.val (nrOf s.klen).val, rnd := r }
  /-- The last round of the forward cipher, with the finish. -/
  | encLast (hp : s.phase = .enc) (hr : s.rnd = nrOf s.klen) :
      BlockEffect s (finish (encRound s.sreg s.rk.toList s.rnd.val (nrOf s.klen).val)
        { s with sreg := encRound s.sreg s.rk.toList s.rnd.val (nrOf s.klen).val })
  /-- A round of the inverse cipher, not the last. -/
  | decMiddle (hp : s.phase = .dec) (hr : s.rnd.val ≤ (nrOf s.klen).val) (r : Fin 15) (hr' : s.rnd.val = r.val + 1) :
      BlockEffect s { s with sreg := decRound s.sreg s.rk.toList s.rnd.val (nrOf s.klen).val, rnd := r }
  /-- The last round of the inverse cipher, with the finish. -/
  | decLast (hp : s.phase = .dec) (hr : s.rnd.val = 0) :
      BlockEffect s (finish (decRound s.sreg s.rk.toList s.rnd.val (nrOf s.klen).val)
        { s with sreg := decRound s.sreg s.rk.toList s.rnd.val (nrOf s.klen).val })

/-- What the block's step can do. -/
theorem blockStep_effect (s t : State) (h : blockStep s = .next t) : BlockEffect s t := by
  unfold blockStep at h
  cases hp : s.phase <;> rw [hp] at h <;> simp only at h
  · cases h
    exact .idle hp
  · unfold kxStep at h
    split at h
    · next hw => cases h; exact .kx hp hw _ _ _ _ rfl rfl rfl (by rw [hp])
    · cases h
  · unfold encStep at h
    simp only at h
    split at h
    · next hr => cases h; exact .encMiddle hp hr _ rfl
    · split at h
      · next hr => cases h; exact .encLast hp hr
      · cases h
  · unfold decStep at h
    simp only at h
    split at h
    · cases h
    · split at h
      · next hr => cases h; exact .decLast hp hr
      · next h1 h2 =>
        cases h
        exact .decMiddle hp (by omega) _ (by show _ = s.rnd.val - 1 + 1; omega)

/-! ### A turn -/

/-- The step of a state whose first turn is `u`. -/
theorem step_of_pending (s : State) (u : Turn) (rest : List Turn) (hp : s.pending = u :: rest) :
    step s = takeTurn u { s with pending := rest } := by
  show nextTransition s = _
  unfold nextTransition
  rw [hp]

/-- The step of a state with no turn to come. -/
theorem step_of_no_pending (s : State) (hp : s.pending = []) : step s = blockStep s := by
  show nextTransition s = _
  unfold nextTransition
  rw [hp]

/-- All that one step can make of `s`. -/
inductive StepEffect (s : State) : State → Prop where
  /-- A turn of the block. -/
  | engine (rest : List Turn) (hp : s.pending = .engine :: rest) (t : State)
      (h : BlockEffect { s with pending := rest } t) : StepEffect s t
  /-- No turn to come: the block's own step. -/
  | silent (hp : s.pending = []) (t : State) (h : BlockEffect s t) : StepEffect s t
  /-- A host read. -/
  | read (a : Addr) (rest : List Turn) (hp : s.pending = .read a :: rest) :
      StepEffect s (hostRead a { s with pending := rest })
  /-- A reset. -/
  | reset (rest : List Turn) (hp : s.pending = .reset :: rest) : StepEffect s (hostReset { s with pending := rest })
  /-- A host write while busy, recorded. -/
  | busyError (a : Addr) (v : Byte) (rest : List Turn) (hp : s.pending = .write a v :: rest) (hb : s.busy = true)
      (he : s.err = false) : StepEffect s { s with pending := rest, err := true, errcode := 0x07, errinfo := v }
  /-- A host write while busy, dropped without trace. -/
  | busyDrop (a : Addr) (v : Byte) (rest : List Turn) (hp : s.pending = .write a v :: rest) (hb : s.busy = true)
      (he : s.err = true) : StepEffect s { s with pending := rest }
  /-- A command. -/
  | command (v : Byte) (rest : List Turn) (hp : s.pending = .write 0x000 v :: rest) (hb : s.busy = false) (t : State)
      (h : CommandEffect v { s with pending := rest } t) : StepEffect s t
  /-- A byte of the key. -/
  | key (a : Addr) (v : Byte) (rest : List Turn) (hp : s.pending = .write a v :: rest) (hb : s.busy = false)
      (ha : 0x010 ≤ a.toNat ∧ a.toNat ≤ 0x02F) :
      StepEffect s { s with pending := rest, key := s.key.set (a.toNat - 0x010) v }
  /-- A byte of the input block. -/
  | din (a : Addr) (v : Byte) (rest : List Turn) (hp : s.pending = .write a v :: rest) (hb : s.busy = false)
      (ha : 0x030 ≤ a.toNat ∧ a.toNat ≤ 0x03F) :
      StepEffect s { s with pending := rest, din := s.din.set (a.toNat - 0x030) v }
  /-- A write that is ignored. -/
  | ignored (a : Addr) (v : Byte) (rest : List Turn) (hp : s.pending = .write a v :: rest) (hb : s.busy = false)
      (ha : (0x001 ≤ a.toNat ∧ a.toNat ≤ 0x00F) ∨ 0x040 ≤ a.toNat) : StepEffect s { s with pending := rest }

/-- What one step can do. -/
theorem step_effect (s t : State) (h : step s = .next t) : StepEffect s t := by
  cases hp : s.pending with
  | nil => rw [step_of_no_pending s hp] at h; exact .silent hp t (blockStep_effect s t h)
  | cons u rest =>
    rw [step_of_pending s u rest hp] at h
    cases u with
    | engine => exact .engine rest hp t (blockStep_effect _ t h)
    | read a => cases h; exact .read a rest hp
    | reset => cases h; exact .reset rest hp
    | write a v =>
      simp only [takeTurn, hostWrite] at h
      cases hb : s.busy with
      | true =>
        rw [if_pos (show State.busy { s with pending := rest } = true from hb)] at h
        cases h
        by_cases he : s.err = true
        · rw [raiseErr_of_set _ _ { s with pending := rest } he]
          exact .busyDrop a v rest hp hb he
        · have he : s.err = false := by simpa using he
          rw [raiseErr_of_clear _ _ { s with pending := rest } he]
          exact .busyError a v rest hp hb he
      | false =>
        rw [if_neg (show ¬ State.busy { s with pending := rest } = true from by simp [State.busy, (not_busy_iff s).mp hb])] at h
        by_cases ha : a.toNat = 0x000
        · rw [if_pos ha] at h
          obtain rfl : a = 0x000 := BitVec.eq_of_toNat_eq ha
          exact .command v rest hp hb t (execute_effect v _ t hb h)
        · rw [if_neg ha] at h
          cases h
          unfold storeByte
          split
          · next hk => exact .key a v rest hp hb hk
          · split
            · next hd => exact .din a v rest hp hb hd
            · exact .ignored a v rest hp hb (by omega)

end Sys2Proof.Machine
end

