-- ==== Sys2Proof/Laws/PerInstr.lean ====
section
/-! SUPPORT. Facts about every command as syntax, one lemma per constructor. -/

namespace Sys2Proof.Laws.EncodeMatchesTable

/-- The mask and the pattern of a command's row in spec/opcode_table.json. -/
def row (i : Instr) : Byte × Byte :=
  match i with
  | .nop => (0xFF, 0x00)
  | .keyexp128 => (0xFF, 0x10)
  | .keyexp192 => (0xFF, 0x11)
  | .keyexp256 => (0xFF, 0x12)
  | .loadiv => (0xFF, 0x20)
  | .loadnonce => (0xFF, 0x30)
  | .ecbEnc => (0xFF, 0x40)
  | .cbcEnc => (0xFF, 0x41)
  | .ctrBlk _ => (0xFB, 0x42)
  | .ecbDec => (0xFF, 0x44)
  | .cbcDec => (0xFF, 0x45)
  | .ctrPart _ => (0xF0, 0x50)
  | .clrerr => (0xFF, 0x60)

/-- The byte of a command has its row's pattern under its row's mask. -/
def Statement (i : Instr) : Prop := encode i &&& (row i).1 = (row i).2

theorem nop : Statement .nop := rfl
theorem keyexp128 : Statement .keyexp128 := rfl
theorem keyexp192 : Statement .keyexp192 := rfl
theorem keyexp256 : Statement .keyexp256 := rfl
theorem loadiv : Statement .loadiv := rfl
theorem loadnonce : Statement .loadnonce := rfl
theorem ecbEnc : Statement .ecbEnc := rfl
theorem cbcEnc : Statement .cbcEnc := rfl
theorem ctrBlk (dir : Bool) : Statement (.ctrBlk dir) := by cases dir <;> rfl
theorem ecbDec : Statement .ecbDec := rfl
theorem cbcDec : Statement .cbcDec := rfl
theorem ctrPart (n : BitVec 4) : Statement (.ctrPart n) := by revert n; unfold Statement; decide
theorem clrerr : Statement .clrerr := rfl

end Sys2Proof.Laws.EncodeMatchesTable
end

