-- ==== Sys2Proof/Laws/Schedule.lean ====
section
/-! SUPPORT. The schedule word by word: lengths, prefixes, and what one write to `RK` does to a prefix. -/

namespace Sys2Proof.Machine

theorem nkOf_pos (kl : KeyLen) : 0 < nkOf kl := by cases kl <;> decide

theorem nkOf_le (kl : KeyLen) : nkOf kl ≤ 8 := by cases kl <;> decide

theorem nrOf_pos (kl : KeyLen) : 1 ≤ (nrOf kl).val := by cases kl <;> decide

theorem nwOf_pos (kl : KeyLen) : 0 < nwOf kl := by cases kl <;> decide

theorem length_expandWords (key : Vector Byte 32) (nk n : Nat) : (expandWords key nk n).length = n := by
  induction n with
  | zero => rfl
  | succ n ih => simp [expandWords, ih]

/-- A shorter schedule of a key is the beginning of a longer one. -/
theorem take_expandWords (key : Vector Byte 32) (nk n m : Nat) (h : n ≤ m) :
    (expandWords key nk m).take n = expandWords key nk n := by
  induction m with
  | zero =>
    obtain rfl : n = 0 := by omega
    rfl
  | succ m ih =>
    by_cases e : n = m + 1
    · rw [e, List.take_of_length_le (by rw [length_expandWords])]
    · simp only [expandWords]
      rw [List.take_append_of_le_length (by rw [length_expandWords]; omega)]
      exact ih (by omega)

/-- Schedules with a common beginning have its words in common. -/
theorem wordAt_eq_of_take (w w' : Schedule) (n i : Nat) (h : w.take n = w'.take n) (hi : i < n) :
    wordAt w i = wordAt w' i := by
  have e := congrArg (fun l => l.getD i (zeroBytes 4)) h
  simp only [List.getD_eq_getElem?_getD, List.getElem?_take, hi, if_true] at e
  simpa only [wordAt, List.getD_eq_getElem?_getD] using e

/-- A word is made from the words before it only. -/
theorem kxWord_eq_of_take (w w' : Schedule) (key : Vector Byte 32) (i nk : Nat) (hnk : 0 < nk)
    (h : w.take i = w'.take i) : kxWord w key i nk = kxWord w' key i nk := by
  unfold kxWord
  split
  · rfl
  · rw [wordAt_eq_of_take w w' i (i - nk) h (by omega), wordAt_eq_of_take w w' i (i - 1) h (by omega)]

theorem scheduleOf_eq (kl : KeyLen) (key : Vector Byte 32) :
    scheduleOf kl key = expandWords key (nkOf kl) (nwOf kl) := rfl

/-- Writing word `i` adds one word to the prefix. -/
theorem take_succ_set (rk : Vector Word 60) (i : Nat) (hi : i < 60) (x : Word) :
    (rk.set i x hi).toList.take (i + 1) = rk.toList.take i ++ [x] := by
  rw [Vector.toList_set, List.take_add_one, List.take_set_of_le (by omega)]
  simp [hi]

/-- Writing word `i` leaves everything after it. -/
theorem drop_set (rk : Vector Word 60) (i n : Nat) (hi : i < 60) (x : Word) (h : i < n) :
    (rk.set i x hi).toList.drop n = rk.toList.drop n := by
  rw [Vector.toList_set, List.drop_set_of_lt (by omega)]

/-- One `KX` step makes the prefix of `RK` that is a schedule one word longer. -/
theorem take_kxWord (rk : Vector Word 60) (key : Vector Byte 32) (kl : KeyLen) (i : Nat) (hi : i < 60)
    (h : rk.toList.take i = expandWords key (nkOf kl) i) :
    (rk.set i (kxWord rk.toList key i (nkOf kl)) hi).toList.take (i + 1) = expandWords key (nkOf kl) (i + 1) := by
  rw [take_succ_set, h]
  simp only [expandWords]
  rw [kxWord_eq_of_take _ (expandWords key (nkOf kl) i) key i (nkOf kl) (nkOf_pos kl)]
  rw [h, List.take_of_length_le (by rw [length_expandWords])]

end Sys2Proof.Machine
end

