-- ==== Sys2Proof/Tests/Slice0.lean ====
section
/-! SUPPORT. The model's own tests. Expected values are the spec's: the vectors V<n> of 95_test_vectors.md, the examples of
the rules, the encodings of 30_encoding.md R91. The second half has a witness for the hypotheses of every obligation. -/

namespace Sys2Proof.Tests

open Sys2Proof.Machine

-- One thread: the kernel evaluations below would otherwise start too many at once for the sandbox's memory.
set_option Elab.async false

/-! ### Helpers -/

/-- The `m` bytes of a number, most significant first. -/
def bytesOf (m n : Nat) : Vector Byte m := Vector.ofFn fun k => BitVec.ofNat 8 (n >>> (8 * (m - 1 - k.val)))

/-- `RK` with the 16 bytes of `n` as round key `r`, zero elsewhere. -/
def rkRound (r n : Nat) : Vector Word 60 :=
  Vector.ofFn fun i => Vector.ofFn fun j =>
    if i.val / 4 = r then BitVec.ofNat 8 (n >>> (8 * (15 - (4 * (i.val % 4) + j.val)))) else 0

/-- The state after reset with a known `RK`. -/
def base : State := { State.reset with rk := rkRound 60 0 }

/-- An idle state with a schedule whose round key 10 is V10's. -/
def keyed : State := { base with kvalid := true, rk := rkRound 10 0xd014f9a8c9ee2589e13f0cc8b6630ca6 }

/-- Before the last round of V2: `S` after round 9. -/
def lastRound : State :=
  { keyed with phase := .enc, rnd := 10, sreg := bytesOf 16 0xeb40f21e592e38848ba113e71bc342d2, oplen := 16 }

/-- A key expansion at its first step. -/
def expanding : State := { base with phase := .kx }

/-- The state an outcome goes on with. -/
def after (o : Host.Outcome State Fault Refusal) : State :=
  match o with
  | .next t => t
  | .fault _ => base
  | .refused _ => base

/-- The step that runs the command byte `v`. -/
def command (v : Nat) (s : State) : State := after (step (s.withFetchWord 8 v))

/-- The step of the first of some turns. -/
def turn (u : Turn) (s : State) : State := after (step { s with pending := [u] })

/-! ### Well-formedness and decoding -/

theorem test_wf_refuses_empty_part : (Instr.ctrPart 0).wf = false := by decide
theorem test_wf_admits_parts : (Instr.ctrPart 1).wf = true ∧ (Instr.ctrPart 15).wf = true := by decide

theorem test_decode_housekeeping : decode 0b0000_0000 = .ok .nop ∧ decode 0b0110_0000 = .ok .clrerr := by decide
theorem test_decode_keyexp :
    decode 0b0001_0000 = .ok .keyexp128 ∧ decode 0b0001_0001 = .ok .keyexp192 ∧ decode 0b0001_0010 = .ok .keyexp256 := by
  decide
theorem test_decode_loads : decode 0b0010_0000 = .ok .loadiv ∧ decode 0b0011_0000 = .ok .loadnonce := by decide
theorem test_decode_block :
    decode 0b0100_0000 = .ok .ecbEnc ∧ decode 0b0100_0001 = .ok .cbcEnc ∧ decode 0b0100_0010 = .ok (.ctrBlk false) ∧
    decode 0b0100_0100 = .ok .ecbDec ∧ decode 0b0100_0101 = .ok .cbcDec ∧ decode 0b0100_0110 = .ok (.ctrBlk true) := by
  decide
theorem test_decode_part : decode 0b0101_0001 = .ok (.ctrPart 1) ∧ decode 0b0101_1111 = .ok (.ctrPart 15) := by decide
/-- V40: 28 commands, 224, 1, 2 and 1 rejected. -/
theorem test_decode_counts :
    let vs := (List.range 256).map (BitVec.ofNat 8)
    (vs.filter fun v => (decode v).toBool).length = 28 ∧
    (vs.filter fun v => decode v == .error .opcode).length = 224 ∧
    (vs.filter fun v => decode v == .error .keylen).length = 1 ∧
    (vs.filter fun v => decode v == .error .mode).length = 2 ∧
    (vs.filter fun v => decode v == .error .empty).length = 1 := by decide +kernel
theorem test_decodeTableWord : decodeTableWord 8 0x12 = some .keyexp256 ∧ decodeTableWord 8 0x50 = none := by decide

/-! ### Functions -/

/-- V4. -/
theorem test_xtimes : xtimes 0x7f = 0xfe ∧ xtimes 0x80 = 0x1b ∧ xtimes 0xff = 0xe5 := by decide
/-- V5. -/
theorem test_gfMult : gfMult 0x57 0x83 = 0xc1 ∧ gfMult 0xff 0xff = 0x13 ∧ gfMult 0x53 0xca = 0x01 := by decide +kernel
/-- V7. -/
theorem test_sbox : sbox 0x53 = 0xed ∧ sbox 0xff = 0x16 ∧ invSbox 0x00 = 0x52 ∧ invSbox 0x16 = 0xff := by decide +kernel
/-- V8. -/
theorem test_rotWord_subWord :
    rotWord #v[0x09, 0xcf, 0x4f, 0x3c] = #v[0xcf, 0x4f, 0x3c, 0x09] ∧
    subWord #v[0xcf, 0x4f, 0x3c, 0x09] = #v[0x8a, 0x84, 0xeb, 0x01] := by decide +kernel
/-- V1a. -/
theorem test_rcon :
    (List.range 10).map (fun j => (rcon j)[0]) = [0x01, 0x02, 0x04, 0x08, 0x10, 0x20, 0x40, 0x80, 0x1b, 0x36] := by
  decide +kernel
/-- V11, V12: the first word of each branch; `w[12]` is the branch only `KEYEXP.256` has. -/
theorem test_schedule_words :
    wordAt (expandWords (bytesOf 32 (0x8e73b0f7da0e6452c810f32b809079e562f8ead2522c6b7b <<< 64)) 6 7) 6 =
      #v[0xfe, 0x0c, 0x91, 0xf7] ∧
    wordAt (expandWords (bytesOf 32 0x603deb1015ca71be2b73aef0857d77811f352c073b6108d72d9810a30914dff4) 8 13) 12 =
      #v[0xa8, 0xb0, 0x9c, 0x1a] := by decide +kernel
/-- V20. -/
theorem test_round_functions :
    let s := bytesOf 16 0x000102030405060708090a0b0c0d0e0f
    subBytes s = bytesOf 16 0x637c777bf26b6fc53001672bfed7ab76 ∧
    invSubBytes s = bytesOf 16 0x52096ad53036a538bf40a39e81f3d7fb ∧
    shiftRows s = bytesOf 16 0x00050a0f04090e03080d02070c01060b ∧
    invShiftRows s = bytesOf 16 0x000d0a0704010e0b0805020f0c090603 ∧
    mixColumns s = bytesOf 16 0x02070005060304010a0f080d0e0b0c09 ∧
    invMixColumns s = bytesOf 16 0x0a0f080d0e0b0c090207000506030401 := by decide +kernel
/-- V2, rounds 0 and 1. -/
theorem test_encRound :
    encRound (bytesOf 16 0x3243f6a8885a308d313198a2e0370734) (rkRound 0 0x2b7e151628aed2a6abf7158809cf4f3c).toList 0 10 =
      bytesOf 16 0x193de3bea0f4e22b9ac68d2ae9f84808 ∧
    encRound (bytesOf 16 0x193de3bea0f4e22b9ac68d2ae9f84808) (rkRound 1 0xa0fafe1788542cb123a339392a6c7605).toList 1 10 =
      bytesOf 16 0xa49c7ff2689f352b6b5bea43026a5049 := by decide +kernel
/-- V3, rounds 10 and 9. -/
theorem test_decRound :
    decRound (bytesOf 16 0x3925841d02dc09fbdc118597196a0b32) (rkRound 10 0xd014f9a8c9ee2589e13f0cc8b6630ca6).toList 10 10 =
      bytesOf 16 0xe9317db5cb322c723d2e895faf090794 ∧
    decRound (bytesOf 16 0xe9317db5cb322c723d2e895faf090794) (rkRound 9 0xac7766f319fadc2128d12941575c006e).toList 9 10 =
      bytesOf 16 0x876e46a6f24ce78c4d904ad897ecc395 := by decide +kernel
/-- V1, the document's known answer. -/
theorem test_cipher_known_answer :
    cipher (scheduleOf .k128 (bytesOf 32 (0x2b7e151628aed2a6abf7158809cf4f3c <<< 128))) 10
      (bytesOf 16 0x3243f6a8885a308d313198a2e0370734) = bytesOf 16 0x3925841d02dc09fbdc118597196a0b32 := by decide +kernel
/-- 44_mode_controller.md R243, its example. -/
theorem test_counterBlock :
    counterBlock (bytesOf 8 0xf0f1f2f3f4f5f6f7) 1 = bytesOf 16 0xf0f1f2f3f4f5f6f70000000000000001 := by decide +kernel

/-! ### Single steps -/

/-- V41: `STATUS`, `ERRCODE`, `ERRINFO` after one command byte. -/
theorem test_error_records :
    ∀ p ∈ [(0x40, 0x08, 0x04, 0x40), (0x13, 0x08, 0x02, 0x13), (0x70, 0x08, 0x01, 0x70), (0x01, 0x08, 0x01, 0x01),
           (0x18, 0x08, 0x01, 0x18), (0x43, 0x08, 0x03, 0x43), (0x4b, 0x08, 0x01, 0x4b), (0x50, 0x08, 0x05, 0x50),
           (0x61, 0x08, 0x01, 0x61), (0xff, 0x08, 0x01, 0xff), (0x55, 0x08, 0x04, 0x55), (0x00, 0x00, 0x00, 0x00),
           (0x60, 0x00, 0x00, 0x00), (0x20, 0x00, 0x00, 0x00), (0x30, 0x00, 0x00, 0x00), (0x10, 0x01, 0x00, 0x00)],
      statusByte (command p.1 base) = p.2.1 ∧ (command p.1 base).errcode = p.2.2.1 ∧
      (command p.1 base).errinfo = p.2.2.2 := by decide +kernel
theorem test_nop_in_fault_stop : statusByte (command 0x00 { base with err := true, errcode := 0x04 }) = 0x08 := by decide
/-- 44_mode_controller.md R232, its example. -/
theorem test_clrerr :
    let t := command 0x60 (command 0x40 base)
    statusByte t = 0x00 ∧ t.errcode = 0x00 ∧ t.errinfo = 0x00 := by decide +kernel
theorem test_keyexp128 : (command 0x10 keyed).kvalid = false ∧ configByte (command 0x10 keyed) = 0x00 := by decide +kernel
/-- 42_key_expansion.md R165, its example. -/
theorem test_keyexp192 : statusByte (command 0x11 base) = 0x01 ∧ configByte (command 0x11 base) = 0x01 := by
  decide +kernel
theorem test_keyexp256 : statusByte (command 0x12 base) = 0x01 ∧ configByte (command 0x12 base) = 0x02 := by
  decide +kernel
/-- V10: the step that makes `w[4]`. -/
theorem test_kx_step :
    let s := { expanding with rk := rkRound 0 0x2b7e151628aed2a6abf7158809cf4f3c, widx := 4 }
    (after (step s)).rk[4] = #v[0xa0, 0xfa, 0xfe, 0x17] ∧ (after (step s)).widx = 5 := by decide +kernel
/-- 42_key_expansion.md R166: the last of 44 steps. -/
theorem test_kx_last_step : statusByte (after (step { expanding with widx := 43 })) = 0x02 := by decide +kernel
/-- 44_mode_controller.md R233, its example. -/
theorem test_loadiv :
    (command 0x20 { base with din := bytesOf 16 0x000102030405060708090a0b0c0d0e0f }).chain =
      bytesOf 16 0x000102030405060708090a0b0c0d0e0f := by decide +kernel
/-- 44_mode_controller.md R234, its example. -/
theorem test_loadnonce :
    let t := command 0x30 { base with din := bytesOf 16 0xf0f1f2f3f4f5f6f7deadbeefdeadbeef, ctr := 7, ctrOvf := true }
    t.nonce = bytesOf 8 0xf0f1f2f3f4f5f6f7 ∧ t.ctr = 0 ∧ t.ctrOvf = false := by decide +kernel
/-- 44_mode_controller.md R235: what each block command latches. -/
theorem test_block_acceptance :
    let s := { keyed with din := bytesOf 16 3, chain := bytesOf 16 5, nonce := bytesOf 8 9, ctr := 1 }
    (command 0x40 s).sreg = bytesOf 16 3 ∧ (command 0x41 s).sreg = bytesOf 16 6 ∧
    (command 0x42 s).sreg = bytesOf 16 0x00000000000000090000000000000001 ∧
    (command 0x44 s).rnd = 10 ∧ (command 0x45 s).phase = .dec ∧ (command 0x46 s).phase = .enc ∧
    (command 0x5f s).oplen = 15 := by decide +kernel
/-- V2, round 10, finishing each command: `DOUT` and what goes with it. -/
theorem test_ecb_finish :
    (after (step lastRound)).dout = bytesOf 16 0x3925841d02dc09fbdc118597196a0b32 ∧
    statusByte (after (step lastRound)) = 0x06 := by decide +kernel
theorem test_cbcEnc_finish :
    (after (step { lastRound with opmode := .cbc })).chain = bytesOf 16 0x3925841d02dc09fbdc118597196a0b32 := by
  decide +kernel
/-- `DOUT` uses the old `CHAIN`, and the new one is `DIN` (44_mode_controller.md R240); `S` and round key as in V3, round 0. -/
theorem test_cbcDec_finish :
    let s := { keyed with
      phase := .dec, opmode := .cbc, opdir := .decrypt, rk := rkRound 0 0x2b7e151628aed2a6abf7158809cf4f3c
      sreg := bytesOf 16 0xd4bf5d30e0b452aeb84111f11e2798e5, chain := bytesOf 16 1, din := bytesOf 16 2 }
    (after (step s)).dout = bytesOf 16 0x3243f6a8885a308d313198a2e0370735 ∧ (after (step s)).chain = bytesOf 16 2 := by
  decide +kernel
theorem test_ctrPart_finish :
    let t := after (step { lastRound with opmode := .ctr, oplen := 5 })
    t.dout = bytesOf 16 0x3925841d020000000000000000000000 ∧ t.ctr = 1 ∧ t.ctrOvf = false := by decide +kernel
theorem test_ctr_overflow :
    let t := after (step { lastRound with opmode := .ctr, ctr := BitVec.allOnes 64 })
    t.ctr = 0 ∧ t.ctrOvf = true ∧ statusByte t = 0x16 := by decide +kernel
/-- V42. -/
theorem test_window :
    (turn (.write 0x010 0x5A) base).key[0] = 0x5A ∧ turn (.write 0x040 0x11) base = base ∧
    turn (.write 0x001 0xFF) base = base ∧ turn (.write 0x100 0x22) base = base ∧
    (List.range 8).map (fun k => readByte { base with ctr := 0x0102030405060708 } (BitVec.ofNat 9 (0x068 + k))) =
      [1, 2, 3, 4, 5, 6, 7, 8] := by decide +kernel
/-- V43. -/
theorem test_busy_write :
    let t := turn (.write 0x030 0x99) expanding
    statusByte t = 0x09 ∧ t.errcode = 0x07 ∧ t.errinfo = 0x99 ∧ t.din[0] = 0x00 := by decide +kernel

/-! ### Witnesses: states and operands that meet the hypotheses of each obligation

Where a statement has several clauses over one input, there is a witness for each, at the ends of its range. -/

/-- A host read or write that is the next turn. -/
def withTurn (u : Turn) (s : State) : State := { s with pending := [u] }

/-- In fault-stop. -/
def stopped : State := { base with err := true, errcode := 0x04, errinfo := 0x40 }

theorem witness_DecodeEncodeAgree : (Instr.ctrPart 15).wf = true ∧ (Instr.ctrBlk true).wf = true := by decide
theorem witness_DecodedByteIsItsEncoding : decode 0x5F = .ok (.ctrPart 15) ∧ decode 0x46 = .ok (.ctrBlk true) := by decide
theorem witness_RejectedBytesByCause :
    decode 0x13 = .error .keylen ∧ decode 0x43 = .error .mode ∧ decode 0x47 = .error .mode ∧ decode 0x50 = .error .empty ∧
    ∀ v ∈ [0x01, 0x0F, 0x14, 0x1F, 0x21, 0x2F, 0x31, 0x3F, 0x48, 0x4F, 0x61, 0x6F, 0x70, 0xFF],
      decode v = .error .opcode := by decide
theorem witness_StepRunsWrittenCommand :
    (withTurn (.write 0x000 0x10) base).pending = [.write 0x000 0x10] ∧ decode 0x10 = .ok .keyexp128 := by decide
theorem witness_EngineTurnIsBlockStep :
    (withTurn .engine expanding).pending = [.engine] ∧ expanding.pending = [] ∧ base.phase = .idle := by decide
theorem witness_EveryHostWriteAnswers : (withTurn (.write 0x1FF 0xFF) expanding).pending = [.write 0x1FF 0xFF] := by decide

/-- For `NopChangesNothing` and `ClrerrClearsRecordOnly`: idle, with and without an error. -/
theorem witness_idle_states : base.busy = false ∧ base.err = false ∧ stopped.busy = false ∧ stopped.err = true := by decide
/-- For `LoadivCopiesDinToChain`, `LoadnonceStartsCounter`, `KeyexpAcceptance`, `KeyexpFillsSchedule`. -/
theorem witness_ready : base.ready ∧ keyed.ready := by decide
theorem witness_ScheduleWordsFollowRecurrence :
    (3 < nwOf .k128 ∧ 3 < nkOf .k128) ∧ (7 < nwOf .k256 ∧ 7 < nkOf .k256) ∧
    (4 < nwOf .k128 ∧ nkOf .k128 ≤ 4 ∧ 4 % nkOf .k128 = 0) ∧ (40 < nwOf .k128 ∧ 40 % nkOf .k128 = 0) ∧
    (12 < nwOf .k256 ∧ nkOf .k256 ≤ 12 ∧ 12 % 8 = 4) ∧ (52 < nwOf .k256 ∧ 52 % 8 = 4) ∧
    (43 < nwOf .k128 ∧ 43 % nkOf .k128 ≠ 0) ∧ (51 < nwOf .k192 ∧ nkOf .k192 ≤ 51 ∧ 51 % nkOf .k192 ≠ 0) ∧
    (59 < nwOf .k256 ∧ 59 % nkOf .k256 ≠ 0 ∧ 59 % 8 ≠ 4) := by decide
/-- Two keys that differ in the first byte the variant does not read. -/
theorem witness_ScheduleReadsOnlyItsKeyBytes :
    (∀ j : Fin 32, j.val < 4 * nkOf .k128 → (zeroBytes 32)[j.val] = ((zeroBytes 32).set 16 0xFF)[j.val]) ∧
    zeroBytes 32 ≠ (zeroBytes 32).set 16 0xFF := by decide +kernel
/-- 43 of the 44 turns of the block, a read and a discarded write among them. -/
def busyTurns : List Turn := .write 0x010 0xAA :: .read 0x100 :: List.replicate 43 .engine

theorem witness_KeyexpCompletesUnderInterleaving :
    let s := { base with pending := .write 0x000 (encode (keyexpOf .k128)) :: (busyTurns ++ [Turn.engine]) }
    s.ready ∧ Turn.reset ∉ busyTurns ∧ busyTurns.count .engine + 1 = nwOf .k128 := by decide
/-- A product that is zero, and an element with an inverse (V5). -/
theorem witness_GfMultIsFieldMultiplication : gfMult 0x00 0xff = 0x00 ∧ gfMult 0x02 0x8d = 0x01 := by decide +kernel
theorem witness_SboxIsAffineOfInverse : gfMult 0x53 0xca = 0x01 := by decide +kernel
/-- For `RoundsComposeToCiphers` and `CipherRoundTrip`. -/
theorem witness_rounds : 1 ≤ (nrOf .k128).val ∧ (nrOf .k256).val = 14 := by decide

/-- For the six block commands, and for the statements about messages: idle, no error, a schedule, the counter not used up. -/
theorem witness_block : keyed.ready ∧ keyed.kvalid = true ∧ keyed.ctrOvf = false := by decide
theorem witness_CtrPartTruncatesKeystream : (1 : BitVec 4) ≠ 0 ∧ (15 : BitVec 4) ≠ 0 := by decide

theorem witness_OpcodeErrorIsRecorded :
    base.ready ∧ (withTurn (.write 0x000 0x70) base).ready ∧
    ∀ v ∈ ([0x70, 0xFF, 0x01, 0x0F, 0x21, 0x2F, 0x31, 0x3F, 0x61, 0x6F, 0x14, 0x1F, 0x48, 0x4F] : List Byte),
      7 ≤ v.toNat / 16 ∨
      ((v.toNat / 16 = 0 ∨ v.toNat / 16 = 2 ∨ v.toNat / 16 = 3 ∨ v.toNat / 16 = 6) ∧ v.toNat % 16 ≠ 0) ∨
      (v.toNat / 16 = 1 ∧ 4 ≤ v.toNat % 16) ∨ (v.toNat / 16 = 4 ∧ 8 ≤ v.toNat % 16) := by decide
theorem witness_FieldErrorIsRecorded :
    ∀ v ∈ ([0x13, 0x43, 0x47, 0x50] : List Byte),
      (withTurn (.write 0x000 v) base).ready ∧ (withTurn (.write 0x000 v) base).pending = [.write 0x000 v] := by decide
theorem witness_BlockCommandNeedsKey :
    base.ready ∧ base.kvalid = false ∧ { base with ctrOvf := true }.ready ∧
    ∀ i ∈ [Instr.ecbEnc, .cbcEnc, .ctrBlk false, .ecbDec, .cbcDec, .ctrBlk true, .ctrPart 1, .ctrPart 15],
      i.wf = true ∧ isBlockCommand i = true := by decide
theorem witness_CtrCommandRefusedAfterOverflow :
    let s := { keyed with ctrOvf := true }
    s.ready ∧ s.kvalid = true ∧ s.ctrOvf = true := by decide
theorem witness_WriteWhileBusyIsDiscarded :
    ∀ s ∈ [withTurn (.write 0x000 0x60) expanding, withTurn (.write 0x1FF 0xFF) { expanding with err := true }],
      s.busy = true := by decide
theorem witness_WriteWhileBusyIsDiscarded_both : expanding.err = false ∧ { expanding with err := true }.err = true := by
  decide
theorem witness_FaultStopIgnoresCommands :
    stopped.busy = false ∧ stopped.err = true ∧ (withTurn (.write 0x000 0x10) stopped).pending = [.write 0x000 0x10] ∧
    (0x10 : Byte) ≠ 0x00 ∧ (0x10 : Byte) ≠ 0x60 := by decide
/-- A rejected command, and a write while busy. -/
theorem witness_ErrorsArePrecise :
    (∃ s t : State, step s = .next t ∧ s.err = false ∧ t.err = true ∧ s.busy = false) ∧
    (∃ s t : State, step s = .next t ∧ s.err = false ∧ t.err = true ∧ s.busy = true) :=
  ⟨⟨withTurn (.write 0x000 0xFF) base, command 0xFF base, rfl, by decide +kernel⟩,
   ⟨withTurn (.write 0x010 0x99) expanding, turn (.write 0x010 0x99) expanding, rfl, by decide +kernel⟩⟩
/-- The record kept, cleared, and reset. -/
theorem witness_RecordStaysUntilCleared :
    ∀ u ∈ [Turn.write 0x000 0x10, .write 0x000 0x60, .reset],
      (withTurn u stopped).err = true ∧ ∃ t, step (withTurn u stopped) = .next t := by
  intro u hu
  simp only [List.mem_cons, List.not_mem_nil, or_false] at hu
  rcases hu with rfl | rfl | rfl <;> exact ⟨rfl, _, rfl⟩

/-! #### The window -/

/-- An address in each clause, at the ends of its range. -/
theorem witness_HostReadReturnsRegister :
    (∀ a ∈ ([0x005, 0x00F, 0x070, 0x0FF, 0x1F0, 0x1FF] : List Addr),
      (0x005 ≤ a.toNat ∧ a.toNat ≤ 0x00F) ∨ (0x070 ≤ a.toNat ∧ a.toNat ≤ 0x0FF) ∨ 0x1F0 ≤ a.toNat) ∧
    (0x010 : Addr).toNat = 0x010 + (0 : Fin 32).val ∧ (0x02F : Addr).toNat = 0x010 + (31 : Fin 32).val ∧
    (0x030 : Addr).toNat = 0x030 + (0 : Fin 16).val ∧ (0x03F : Addr).toNat = 0x030 + (15 : Fin 16).val ∧
    (0x040 : Addr).toNat = 0x040 + (0 : Fin 16).val ∧ (0x04F : Addr).toNat = 0x040 + (15 : Fin 16).val ∧
    (0x050 : Addr).toNat = 0x050 + (0 : Fin 16).val ∧ (0x05F : Addr).toNat = 0x050 + (15 : Fin 16).val ∧
    (0x060 : Addr).toNat = 0x060 + (0 : Fin 8).val ∧ (0x067 : Addr).toNat = 0x060 + (7 : Fin 8).val ∧
    (0x068 : Addr).toNat = 0x068 + (0 : Fin 8).val ∧ (0x06F : Addr).toNat = 0x068 + (7 : Fin 8).val ∧
    (0x100 : Addr).toNat = 0x100 + 4 * (0 : Fin 60).val + (0 : Fin 4).val ∧
    (0x1EF : Addr).toNat = 0x100 + 4 * (59 : Fin 60).val + (3 : Fin 4).val ∧
    base.busy = false ∧ (withTurn (.read 0x1EF) base).pending = [.read 0x1EF] := by decide
theorem witness_DataWriteStoresByte :
    stopped.busy = false ∧ (withTurn (.write 0x02F 0x5A) stopped).pending = [.write 0x02F 0x5A] ∧
    (0x010 : Addr).toNat = 0x010 + (0 : Fin 32).val ∧ (0x02F : Addr).toNat = 0x010 + (31 : Fin 32).val ∧
    (0x030 : Addr).toNat = 0x030 + (0 : Fin 16).val ∧ (0x03F : Addr).toNat = 0x030 + (15 : Fin 16).val := by decide
theorem witness_ReadOnlyWriteIsIgnored :
    base.busy = false ∧ (withTurn (.write 0x040 0x11) base).pending = [.write 0x040 0x11] ∧
    ∀ a ∈ ([0x001, 0x00F, 0x040, 0x1FF] : List Addr),
      (0x001 ≤ a.toNat ∧ a.toNat ≤ 0x00F) ∨ 0x040 ≤ a.toNat := by decide

/-! #### The writers -/

theorem witness_KeyAndDinWrittenOnlyByHost :
    (∃ s t : State, step s = .next t ∧ s.pending.head? ≠ some .reset ∧ t.key[31] ≠ s.key[31]) ∧
    (∃ s t : State, step s = .next t ∧ s.pending.head? ≠ some .reset ∧ t.din[0] ≠ s.din[0]) :=
  ⟨⟨withTurn (.write 0x02F 0x5A) base, turn (.write 0x02F 0x5A) base, rfl, by decide +kernel⟩,
   ⟨withTurn (.write 0x030 0x5A) base, turn (.write 0x030 0x5A) base, rfl, by decide +kernel⟩⟩
theorem witness_DoutWrittenOnlyByFinish :
    ∃ s t : State, step s = .next t ∧ s.pending.head? ≠ some .reset ∧ t.dout ≠ s.dout :=
  ⟨lastRound, after (step lastRound), rfl, by decide +kernel⟩
/-- `LOADIV`, and a CBC finish. -/
theorem witness_ChainWrittenOnlyByLoadivAndCbc :
    (∃ s t : State, step s = .next t ∧ s.pending.head? ≠ some .reset ∧ t.chain ≠ s.chain ∧ s.phase = .idle) ∧
    (∃ s t : State, step s = .next t ∧ s.pending.head? ≠ some .reset ∧ t.chain ≠ s.chain ∧ s.phase = .enc) :=
  ⟨⟨withTurn (.write 0x000 0x20) { base with din := bytesOf 16 1 }, command 0x20 { base with din := bytesOf 16 1 }, rfl,
      by decide +kernel⟩,
   ⟨{ lastRound with opmode := .cbc }, after (step { lastRound with opmode := .cbc }), rfl, by decide +kernel⟩⟩
/-- `LOADNONCE`, and a CTR finish. -/
theorem witness_NonceAndCtrWriters :
    (∃ s t : State, step s = .next t ∧ s.pending.head? ≠ some .reset ∧ t.nonce ≠ s.nonce ∧ t.ctr ≠ s.ctr) ∧
    (∃ s t : State, step s = .next t ∧ s.pending.head? ≠ some .reset ∧ t.ctr ≠ s.ctr ∧ s.phase = .enc) :=
  ⟨⟨withTurn (.write 0x000 0x30) { base with ctr := 7, din := bytesOf 16 (1 <<< 120) },
      command 0x30 { base with ctr := 7, din := bytesOf 16 (1 <<< 120) }, rfl, by decide +kernel⟩,
   ⟨{ lastRound with opmode := .ctr }, after (step { lastRound with opmode := .ctr }), rfl, by decide +kernel⟩⟩
theorem witness_RoundKeysWrittenOnlyByKeyExpansion :
    ∃ s t : State, step s = .next t ∧ s.pending.head? ≠ some .reset ∧ t.rk[0] ≠ s.rk[0] :=
  ⟨{ expanding with key := bytesOf 32 (1 <<< 248) }, after (step { expanding with key := bytesOf 32 (1 <<< 248) }), rfl,
    by decide +kernel⟩
/-- `KEYEXP`, a forward and an inverse block command. -/
theorem witness_PhaseLeavesIdleOnlyAtAcceptance :
    ∀ v ∈ [0x12, 0x5F, 0x45], keyed.phase = .idle ∧ (command v keyed).phase ≠ .idle := by decide +kernel
/-- The six changes of the flags, in the order of the statement. -/
theorem witness_FlagsChangeOnlyAsListed :
    let kx := { expanding with widx := 43 }
    let wrap := { lastRound with opmode := .ctr, ctr := BitVec.allOnes 64 }
    let full := { keyed with doutValid := true, ctrOvf := true }
    (kx.kvalid = false ∧ (after (step kx)).kvalid = true) ∧
    (keyed.kvalid = true ∧ (command 0x11 keyed).kvalid = false) ∧
    (lastRound.doutValid = false ∧ (after (step lastRound)).doutValid = true) ∧
    (full.doutValid = true ∧ (command 0x40 full).doutValid = false) ∧
    (wrap.ctrOvf = false ∧ (after (step wrap)).ctrOvf = true) ∧
    (full.ctrOvf = true ∧ (command 0x30 full).ctrOvf = false) := by decide +kernel

/-! #### Reset, the invariant, progress, messages -/

theorem witness_ResetFromAnyState : (withTurn .reset lastRound).pending = [.reset] := by decide
/-- The ends of the two ranges outside `RK`. -/
theorem witness_ResetWindowReadsZero :
    ∀ a ∈ ([0x000, 0x0FF, 0x1F0, 0x1FF] : List Addr), ¬ (0x100 ≤ a.toNat ∧ a.toNat ≤ 0x1EF) := by decide
/-- A key expansion in flight meets the invariant, and steps. -/
theorem expanding_inv : Inv expanding where
  kx := by decide
  engine := by decide
  dec := by decide
  ctr := by decide
  record := by decide
  schedule := by intro h; cases h
  overflow := by decide

/-- A block command in flight meets the invariant: the words of a schedule are in `RK`. -/
theorem enciphering_inv :
    Inv { lastRound with rk := Vector.ofFn fun i => wordAt (scheduleOf .k128 (zeroBytes 32)) i.val } where
  kx := by intro h; cases h
  engine := by intro _; decide
  dec := by intro h; cases h
  ctr := by intro _ h; cases h
  record := by decide
  schedule := by
    intro _
    exact ⟨zeroBytes 32, by decide +kernel⟩
  overflow := by intro h; cases h

theorem witness_StepKeepsInvariant : Inv expanding ∧ ∃ t, step expanding = .next t := ⟨expanding_inv, _, rfl⟩
/-- For `InvariantStatesNeverStop` and `OperationEndsAfterItsSteps`: an operation with 44 steps to go, and one with 1. -/
theorem witness_OperationEndsAfterItsSteps : Inv expanding ∧ stepsLeft expanding = 44 ∧ stepsLeft lastRound = 1 :=
  ⟨expanding_inv, by decide, by decide⟩
/-- A read, a discarded write and two of the block's turns within a key expansion. -/
theorem witness_HostTurnsDoNotDisturbOperation :
    let mid := [Turn.read 0x100, .engine, .write 0x010 0x99, .engine]
    let s := { expanding with pending := mid ++ [Turn.engine] }
    Turn.reset ∉ mid ∧ ∃ u, blockRun (mid.count .engine) s = .next u ∧ u.busy = true :=
  ⟨by decide, _, rfl, by decide +kernel⟩
/-- States that differ in leftovers: `RND` while idle, `WIDX` while enciphering. -/
theorem witness_LeftoversAreUnobservable :
    (wipeLeftovers keyed = wipeLeftovers { keyed with rnd := 5, oplen := 9 } ∧ keyed ≠ { keyed with rnd := 5, oplen := 9 }) ∧
    (wipeLeftovers lastRound = wipeLeftovers { lastRound with widx := 60 } ∧ lastRound ≠ { lastRound with widx := 60 }) ∧
    ∃ t, step lastRound = .next t :=
  ⟨by decide +kernel, by decide +kernel, _, rfl⟩
/-- For `CtrMessageFollowsCounter` and `ModeRoundTrip`: a message with a tail. -/
theorem witness_CtrMessageFollowsCounter :
    let tail : Option (BitVec 4 × Block) := some (15, bytesOf 16 1)
    keyed.ready ∧ keyed.kvalid = true ∧ (∀ n b, tail = some (n, b) → n ≠ 0) ∧
    [bytesOf 16 1, bytesOf 16 2].length + (if tail.isSome then 1 else 0) < 2 ^ 64 := by
  refine ⟨by decide, by decide, ?_, by decide⟩
  intro n b h
  cases h
  decide
theorem witness_KeystreamNeverRepeats :
    cipher [] (nrOf .k128).val (counterBlock (zeroBytes 8) 1) = cipher [] (nrOf .k128).val (counterBlock (zeroBytes 8) 1) := rfl
/-- Two states with one schedule, different chaining values, and blocks whose XOR with them agrees. -/
theorem witness_ResultDependsOnlyOnItsInputs :
    let t := { keyed with chain := bytesOf 16 3, ctr := 9 }
    keyed.ready ∧ t.ready ∧ keyed.kvalid = true ∧ t.kvalid = true ∧ keyed.klen = t.klen ∧
    keyed.rk.toList.take (nwOf keyed.klen) = t.rk.toList.take (nwOf keyed.klen) ∧
    xorBytes (bytesOf 16 5) keyed.chain = xorBytes (bytesOf 16 6) t.chain := by decide +kernel

end Sys2Proof.Tests
end

section
/-! PROOFS of the scope statements (00_scope.md): the turns of the block. -/

namespace Sys2Proof.Machine

/-- 00_scope.md R12: while `PHASE = IDLE` the block has no step. -/
theorem blockStep_of_idle (s : State) (hp : s.phase = .idle) : blockStep s = .next s := by
  unfold blockStep
  rw [hp]

@[simp] theorem takeTurn_engine (s : State) : takeTurn .engine s = blockStep s := rfl

/-- The step of a state whose first turn is the block's. -/
theorem step_of_pending_engine (s : State) (rest : List Turn) (hp : s.pending = .engine :: rest) :
    step s = blockStep { s with pending := rest } := by
  rw [step_of_pending s .engine rest hp, takeTurn_engine]

/-- Settles O6: one clause for each way the block comes to its step, and one for the idle block. -/
theorem engineTurnIsBlockStep : Obligations.EngineTurnIsBlockStep :=
  ⟨step_of_pending_engine, step_of_no_pending, blockStep_of_idle⟩

end Sys2Proof.Machine
end

section
/-! PROOFS of the state statements (10_state.md): the laws of the transitions that the statements below use. Which registers
a transition leaves alone, from the effects of Laws/Effects.lean, and which turns are answered. -/

namespace Sys2Proof.Machine

/-! ### One write to a vector -/

/-- A byte or Word that changes under one write is the one written. -/
theorem eq_index_of_getElem_set_ne {α : Type} {n : Nat} {x : Vector α n} {j k : Nat} {v : α} (hj : j < n) {hk : k < n}
    (h : (x.set j v hj)[k] ≠ x[k]) : j = k ∧ (x.set j v hj)[k] = v := by
  by_cases e : j = k
  · subst e
    exact ⟨rfl, Vector.getElem_set_self hj⟩
  · exact absurd (Vector.getElem_set_ne hj hk e) h

/-! ### The counter -/

/-- The counter that wraps goes on with 0 (44_mode_controller.md R244). -/
theorem add_one_eq_zero_of_ctrWraps {c : BitVec 64} (h : ctrWraps c = true) : c + 1 = 0 := by
  obtain rfl : c = BitVec.allOnes 64 := by simpa [ctrWraps] using h
  rfl

/-! ### The block's own step -/

/-- The registers that only a finish step of the block writes. -/
structure SameResults (s t : State) : Prop where
  dout : t.dout = s.dout
  chain : t.chain = s.chain
  ctr : t.ctr = s.ctr
  doutValid : t.doutValid = s.doutValid
  ctrOvf : t.ctrOvf = s.ctrOvf

/-- A step of the block leaves the results alone, or it is the finish step of a block command. -/
theorem BlockEffect.results {s t : State} (h : BlockEffect s t) :
    SameResults s t ∨ ((s.phase = .enc ∨ s.phase = .dec) ∧ ∃ b, t = finish b { s with sreg := b }) := by
  cases h with
  | encLast hp _ => exact .inr ⟨.inl hp, _, rfl⟩
  | decLast hp _ => exact .inr ⟨.inr hp, _, rfl⟩
  | _ => exact .inl ⟨rfl, rfl, rfl, rfl, rfl⟩

/-- A step of the block writes none of the registers that only the host's transactions write. -/
theorem BlockEffect.keeps_inputs {s t : State} (h : BlockEffect s t) :
    t.key = s.key ∧ t.din = s.din ∧ t.nonce = s.nonce := by
  cases h <;> exact ⟨rfl, rfl, rfl⟩

/-- A step of the block leaves `RK` and `KVALID` alone, or it is a key expansion step: it writes word `WIDX`, and only with
the last one `KVALID` is set. -/
theorem BlockEffect.keys {s t : State} (h : BlockEffect s t) :
    (t.rk = s.rk ∧ t.kvalid = s.kvalid) ∨
    (s.phase = .kx ∧ t.widx.val = s.widx.val + 1 ∧ (t.kvalid = s.kvalid ∨ t.kvalid = true ∧ t.phase = .idle) ∧
      ∃ x hw, t.rk = s.rk.set s.widx.val x hw) := by
  cases h with
  | kx hp hw rk widx kvalid phase hrk hwi hkv hph =>
    refine .inr ⟨hp, hwi, ?_, _, _, hrk⟩
    by_cases last : s.widx.val + 1 = nwOf s.klen
    · exact .inr ⟨by rw [hkv, if_pos last], by rw [hph, if_pos last]⟩
    · exact .inl (by rw [hkv, if_neg last])
  | _ => exact .inl ⟨rfl, rfl⟩

/-- 10_state.md R29: while `PHASE = IDLE` the block's turn changes nothing. -/
theorem BlockEffect.eq_of_idle {s t : State} (h : BlockEffect s t) (hi : s.phase = .idle) : t = s := by
  cases h with
  | idle _ => rfl
  | kx hp | encMiddle hp | encLast hp | decMiddle hp | decLast hp => rw [hp] at hi; cases hi

/-! ### Commands -/

/-- No command writes `KEY`, `DIN`, `DOUT` or `RK`. -/
theorem CommandEffect.keeps_data {v : Byte} {s t : State} (h : CommandEffect v s t) :
    t.key = s.key ∧ t.din = s.din ∧ t.dout = s.dout ∧ t.rk = s.rk := by
  cases h <;> exact ⟨rfl, rfl, rfl, rfl⟩

/-- The three `KEYEXP` bytes (30_encoding.md R93). -/
theorem encode_keyexpOf (kl : KeyLen) :
    encode (keyexpOf kl) = 0x10 ∨ encode (keyexpOf kl) = 0x11 ∨ encode (keyexpOf kl) = 0x12 := by
  cases kl <;> decide

/-! ### A transition other than reset -/

/-- All that a transition other than reset can do to the result registers, `NONCE`, `RK` and `KVALID`: the block's step and
the commands write them, and every other transaction of the host leaves them as they are. -/
inductive RegisterEffect (s t : State) : Prop where
  /-- The block's step, on a turn of its own or with no turn to come. -/
  | block (rest : List Turn) (h : BlockEffect { s with pending := rest } t)
  /-- A command. -/
  | command (v : Byte) (rest : List Turn) (hp : s.pending = .write 0x000 v :: rest) (hi : s.phase = .idle)
      (h : CommandEffect v { s with pending := rest } t)
  /-- A host read, or a host write that is not a command. -/
  | host (h : SameResults s t) (hn : t.nonce = s.nonce) (hrk : t.rk = s.rk) (hkv : t.kvalid = s.kvalid)

theorem step_registerEffect {s t : State} (h : step s = .next t) (hr : s.pending.head? ≠ some .reset) :
    RegisterEffect s t := by
  cases step_effect s t h with
  | engine rest _ _ hb => exact .block rest hb
  | silent _ _ hb => exact .block s.pending hb
  | command v rest hp hb _ hc => exact .command v rest hp ((not_busy_iff s).mp hb) hc
  | reset rest hp => exact absurd (congrArg List.head? hp) hr
  | _ => exact .host ⟨rfl, rfl, rfl, rfl, rfl⟩ rfl rfl rfl

/-! ### The block's step, case by case -/

/-- The `KX` step writes word `WIDX` (42_key_expansion.md R166). -/
theorem kxStep_of_lt {s : State} (h : s.widx.val < nwOf s.klen) :
    kxStep s = .next { s with
      rk := s.rk.set s.widx.val (kxWord s.rk.toList s.key s.widx.val (nkOf s.klen))
        (Nat.lt_of_lt_of_le h (nwOf_le s.klen))
      widx := ⟨s.widx.val + 1, Nat.succ_lt_succ (Nat.lt_of_lt_of_le h (nwOf_le s.klen))⟩
      kvalid := if s.widx.val + 1 = nwOf s.klen then true else s.kvalid
      phase := if s.widx.val + 1 = nwOf s.klen then .idle else s.phase } :=
  dif_pos h

theorem kxStep_of_le {s : State} (h : nwOf s.klen ≤ s.widx.val) : kxStep s = .fault .widxOutOfRange :=
  dif_neg (Nat.not_lt.mpr h)

/-- The `ENC` step before the last (43_round_engine.md R201). -/
theorem encStep_of_lt {s : State} (h : s.rnd.val < (nrOf s.klen).val) :
    encStep s = .next { s with
      sreg := encRound s.sreg s.rk.toList s.rnd.val (nrOf s.klen).val, rnd := ⟨s.rnd.val + 1, by omega⟩ } :=
  dif_pos h

/-- The last `ENC` step, with the finish (43_round_engine.md R201). -/
theorem encStep_of_eq {s : State} (h : s.rnd.val = (nrOf s.klen).val) :
    encStep s = .next (finish (encRound s.sreg s.rk.toList s.rnd.val (nrOf s.klen).val)
      { s with sreg := encRound s.sreg s.rk.toList s.rnd.val (nrOf s.klen).val }) :=
  (dif_neg h.not_lt).trans (if_pos (Fin.ext h))

theorem encStep_of_gt {s : State} (h : (nrOf s.klen).val < s.rnd.val) : encStep s = .fault .rndOutOfRange :=
  (dif_neg h.not_gt).trans (if_neg fun e => h.ne (congrArg Fin.val e).symm)

/-- The `DEC` step before the last (43_round_engine.md R203). -/
theorem decStep_of_pos {s : State} (h0 : s.rnd.val ≠ 0) (h : s.rnd.val ≤ (nrOf s.klen).val) :
    decStep s = .next { s with
      sreg := decRound s.sreg s.rk.toList s.rnd.val (nrOf s.klen).val, rnd := ⟨s.rnd.val - 1, by omega⟩ } :=
  (if_neg h.not_gt).trans (if_neg h0)

/-- The last `DEC` step, with the finish (43_round_engine.md R203). -/
theorem decStep_of_zero {s : State} (h : s.rnd.val = 0) :
    decStep s = .next (finish (decRound s.sreg s.rk.toList s.rnd.val (nrOf s.klen).val)
      { s with sreg := decRound s.sreg s.rk.toList s.rnd.val (nrOf s.klen).val }) :=
  (if_neg (by omega)).trans (if_pos h)

theorem decStep_of_gt {s : State} (h : (nrOf s.klen).val < s.rnd.val) : decStep s = .fault .rndOutOfRange :=
  if_pos h

/-! ### Which turns are answered -/

/-- 30_encoding.md R97: every command answers a next state. -/
theorem exec_answers (i : Instr) (s : State) : ∃ t, exec i s = .next t := by
  cases i <;> exact ⟨_, rfl⟩

/-- 30_encoding.md R97: every byte written to `CMD` answers a next state. -/
theorem execute_answers (v : Byte) (s : State) : ∃ t, execute v s = .next t := by
  unfold execute
  split
  · exact exec_answers _ s
  · exact ⟨_, rfl⟩

/-- 30_encoding.md R97: every host write answers a next state. -/
theorem hostWrite_answers (a : Addr) (v : Byte) (s : State) : ∃ t, hostWrite a v s = .next t := by
  unfold hostWrite
  split
  · exact ⟨_, rfl⟩
  · split
    · exact execute_answers v s
    · exact ⟨_, rfl⟩

/-- The block's step answers a next state where the rules give it one: `WIDX < NW` in `KX`, `RND ≤ Nr` in `ENC` and `DEC`
(42_key_expansion.md R166, 43_round_engine.md R200, R202; log 7). -/
theorem blockStep_answers {s : State} (hkx : s.phase = .kx → s.widx.val < nwOf s.klen)
    (hengine : s.phase = .enc ∨ s.phase = .dec → s.rnd.val ≤ (nrOf s.klen).val) : ∃ t, blockStep s = .next t := by
  unfold blockStep
  cases hp : s.phase with
  | idle => exact ⟨_, rfl⟩
  | kx => exact ⟨_, kxStep_of_lt (hkx hp)⟩
  | enc =>
    obtain hlt | heq := (hengine (.inl hp)).lt_or_eq
    · exact ⟨_, encStep_of_lt hlt⟩
    · exact ⟨_, encStep_of_eq heq⟩
  | dec =>
    by_cases h0 : s.rnd.val = 0
    · exact ⟨_, decStep_of_zero h0⟩
    · exact ⟨_, decStep_of_pos h0 (hengine (.inr hp))⟩

end Sys2Proof.Machine
end

section
/-! PROOFS of the state statements (10_state.md R21 to R36): who writes which register. -/

namespace Sys2Proof.Machine

/-- Settles O41: the block's step and the commands keep both registers, and of the host writes only the two stores do not. -/
theorem keyAndDinWrittenOnlyByHost : Obligations.KeyAndDinWrittenOnlyByHost := by
  intro s t h hr
  cases step_effect s t h with
  | engine _ _ _ hb | silent _ _ hb =>
    obtain ⟨hkey, hdin, -⟩ := hb.keeps_inputs
    exact ⟨fun k hk => absurd (by rw [hkey]) hk, fun k hk => absurd (by rw [hdin]) hk⟩
  | command _ _ _ _ _ hc =>
    obtain ⟨hkey, hdin, -, -⟩ := hc.keeps_data
    exact ⟨fun k hk => absurd (by rw [hkey]) hk, fun k hk => absurd (by rw [hdin]) hk⟩
  | reset rest hp => exact absurd (congrArg List.head? hp) hr
  | key a v rest hp hb ha =>
    refine ⟨fun k hk => ?_, fun k hk => absurd rfl hk⟩
    obtain ⟨hj, hv⟩ := eq_index_of_getElem_set_ne (by omega) hk
    exact ⟨hb, a, v, rest, hp, by omega, hv⟩
  | din a v rest hp hb ha =>
    refine ⟨fun k hk => absurd rfl hk, fun k hk => ?_⟩
    obtain ⟨hj, hv⟩ := eq_index_of_getElem_set_ne (by omega) hk
    exact ⟨hb, a, v, rest, hp, by omega, hv⟩
  | _ => exact ⟨fun k hk => absurd rfl hk, fun k hk => absurd rfl hk⟩

/-- Settles O42: commands keep `DOUT`, and a step of the block that does not is a finish step. -/
theorem doutWrittenOnlyByFinish : Obligations.DoutWrittenOnlyByFinish := by
  intro s t h hr hne
  cases step_registerEffect h hr with
  | block rest hb =>
    obtain hsame | ⟨hp, b, rfl⟩ := hb.results
    · exact absurd hsame.dout hne
    · exact ⟨hp, rfl, rfl⟩
  | command v rest _ _ hc =>
    obtain ⟨-, -, hdout, -⟩ := hc.keeps_data
    exact absurd hdout hne
  | host hsame => exact absurd hsame.dout hne

/-- Settles O43: of the commands only `LOADIV` writes `CHAIN`, and of the finish steps only that of CBC. -/
theorem chainWrittenOnlyByLoadivAndCbc : Obligations.ChainWrittenOnlyByLoadivAndCbc := by
  intro s t h hr hne
  cases step_registerEffect h hr with
  | block rest hb =>
    obtain hsame | ⟨hp, b, rfl⟩ := hb.results
    · exact absurd hsame.chain hne
    · have hm : s.opmode = .cbc := by
        by_contra hm
        exact hne (finishChain_eq_of_ne_cbc b _ hm)
      exact .inr ⟨hp, hm, rfl⟩
  | command v rest hp _ hc =>
    cases hc with
    | loadiv _ hv => exact .inl ⟨rest, hv ▸ hp, rfl⟩
    | _ => exact absurd rfl hne
  | host hsame => exact absurd hsame.chain hne

/-- Settles O44: of the commands only `LOADNONCE` writes `NONCE` or `CTR`, and a finish step writes `CTR` in mode CTR
only. -/
theorem nonceAndCtrWriters : Obligations.NonceAndCtrWriters := by
  intro s t h hr
  cases step_registerEffect h hr with
  | block rest hb =>
    obtain ⟨-, -, hnonce⟩ := hb.keeps_inputs
    refine ⟨fun hne => absurd hnonce hne, fun hne => ?_⟩
    obtain hsame | ⟨hp, b, rfl⟩ := hb.results
    · exact absurd hsame.ctr hne
    · by_cases hm : s.opmode = .ctr
      · exact .inr ⟨hp, hm, rfl, by simp [hm]⟩
      · exact absurd (by simp [hm]) hne
  | command v rest hp _ hc =>
    cases hc with
    | loadnonce _ hv => exact ⟨fun _ => ⟨rest, hv ▸ hp⟩, fun _ => .inl ⟨rest, hv ▸ hp, rfl⟩⟩
    | _ => exact ⟨fun hne => absurd rfl hne, fun hne => absurd rfl hne⟩
  | host hsame hnonce => exact ⟨fun hne => absurd hnonce hne, fun hne => absurd hsame.ctr hne⟩

/-- Settles O45: commands keep `RK`, and a step of the block that does not is one write at `WIDX`. -/
theorem roundKeysWrittenOnlyByKeyExpansion : Obligations.RoundKeysWrittenOnlyByKeyExpansion := by
  intro s t h hr i hne
  cases step_registerEffect h hr with
  | block rest hb =>
    obtain ⟨hrk, -⟩ | ⟨hp, hwidx, -, x, hw, hrk⟩ := hb.keys
    · exact absurd (by rw [hrk]) hne
    · simp only [hrk] at hne
      exact ⟨hp, (eq_index_of_getElem_set_ne hw hne).1.symm, hwidx⟩
  | command v rest _ _ hc =>
    obtain ⟨-, -, -, hrk⟩ := hc.keeps_data
    exact absurd (by rw [hrk]) hne
  | host _ _ hrk => exact absurd (by rw [hrk]) hne

/-- Settles O46: an idle block has no step, and of the commands only the accepted operations set `PHASE`. -/
theorem phaseLeavesIdleOnlyAtAcceptance : Obligations.PhaseLeavesIdleOnlyAtAcceptance := by
  intro s t h hi hne
  cases step_effect s t h with
  | engine _ _ _ hb | silent _ _ hb => rw [hb.eq_of_idle hi] at hne; exact absurd hi hne
  | reset => exact absurd rfl hne
  | command v rest hp _ _ hc =>
    cases hc with
    | keyexp kl he hv => exact ⟨he, v, rest, hp, .inl ⟨rfl, hv ▸ encode_keyexpOf kl⟩⟩
    | block i mode dir len he hk _ hd hib _ _ hdec =>
      refine ⟨he, v, rest, hp, .inr ⟨hk, i, hd, hib, ?_⟩⟩
      split
      · next hid => exact hdec.mpr hid
      · next hid => exact (enginePhase_cases mode dir).resolve_right fun e => hid (hdec.mp e)
    | _ => exact absurd hi hne
  | _ => exact absurd hi hne

/-! The three flags, one lemma each: every transition keeps the flag, or is one of those that 10_state.md R36 lists. -/

/-- 10_state.md R36, `KVALID`: kept, set by the last key expansion step, or cleared by a `KEYEXP` byte. -/
theorem step_kvalid {s t : State} (h : step s = .next t) (hr : s.pending.head? ≠ some .reset) :
    t.kvalid = s.kvalid ∨ (t.kvalid = true ∧ s.phase = .kx ∧ t.phase = .idle) ∨
    (t.kvalid = false ∧ ∃ v rest, s.pending = .write 0x000 v :: rest ∧ (v = 0x10 ∨ v = 0x11 ∨ v = 0x12)) := by
  cases step_registerEffect h hr with
  | block rest hb =>
    obtain ⟨-, hkv⟩ | ⟨hp, -, hkv | ⟨hkv, hidle⟩, -⟩ := hb.keys
    · exact .inl hkv
    · exact .inl hkv
    · exact .inr (.inl ⟨hkv, hp, hidle⟩)
  | command v rest hp _ hc =>
    cases hc with
    | keyexp kl _ hv => exact .inr (.inr ⟨rfl, v, rest, hp, hv ▸ encode_keyexpOf kl⟩)
    | _ => exact .inl rfl
  | host _ _ _ hkv => exact .inl hkv

/-- 10_state.md R36, `DOUT_VALID`: kept, set by a finish step, or cleared by the acceptance of a block command. -/
theorem step_doutValid {s t : State} (h : step s = .next t) (hr : s.pending.head? ≠ some .reset) :
    t.doutValid = s.doutValid ∨ (t.doutValid = true ∧ (s.phase = .enc ∨ s.phase = .dec) ∧ t.phase = .idle) ∨
    (t.doutValid = false ∧ s.phase = .idle ∧ (t.phase = .enc ∨ t.phase = .dec)) := by
  cases step_registerEffect h hr with
  | block rest hb =>
    obtain hsame | ⟨hp, b, rfl⟩ := hb.results
    · exact .inl hsame.doutValid
    · exact .inr (.inl ⟨rfl, hp, rfl⟩)
  | command v rest _ hi hc =>
    cases hc with
    | block i mode dir len => exact .inr (.inr ⟨rfl, hi, enginePhase_cases mode dir⟩)
    | _ => exact .inl rfl
  | host hsame => exact .inl hsame.doutValid

/-- 10_state.md R36, `CTR_OVF`: kept, cleared by `LOADNONCE`, or written by the finish step of a CTR command, which sets it
exactly if `CTR` wraps (44_mode_controller.md R244). -/
theorem step_ctrOvf {s t : State} (h : step s = .next t) (hr : s.pending.head? ≠ some .reset) :
    t.ctrOvf = s.ctrOvf ∨ (t.ctrOvf = false ∧ ∃ rest, s.pending = .write 0x000 0x30 :: rest) ∨
    ((s.phase = .enc ∨ s.phase = .dec) ∧ s.opmode = .ctr ∧ t.phase = .idle ∧ t.ctrOvf = ctrWraps s.ctr ∧
      t.ctr = s.ctr + 1) := by
  cases step_registerEffect h hr with
  | block rest hb =>
    obtain hsame | ⟨hp, b, rfl⟩ := hb.results
    · exact .inl hsame.ctrOvf
    · by_cases hm : s.opmode = .ctr
      · exact .inr (.inr ⟨hp, hm, rfl, by simp [hm], by simp [hm]⟩)
      · exact .inl (by simp [hm])
  | command v rest hp _ hc =>
    cases hc with
    | loadnonce _ hv => exact .inr (.inl ⟨rfl, rest, hv ▸ hp⟩)
    | _ => exact .inl rfl
  | host hsame => exact .inl hsame.ctrOvf

/-- Settles O47: the lemma of each flag, read once for setting and once for clearing. -/
theorem flagsChangeOnlyAsListed : Obligations.FlagsChangeOnlyAsListed := by
  intro s t h hr
  have hkv := step_kvalid h hr
  have hdv := step_doutValid h hr
  have hovf := step_ctrOvf h hr
  refine ⟨fun h0 h1 => ?_, fun h1 h0 => ?_, fun h0 h1 => ?_, fun h1 h0 => ?_, fun h0 h1 => ?_, fun h1 h0 => ?_⟩
  · simpa [h0, h1] using hkv
  · simpa [h0, h1] using hkv
  · simpa [h0, h1] using hdv
  · simpa [h0, h1] using hdv
  · simp only [h0, h1, Bool.true_eq_false, false_and, false_or] at hovf
    obtain ⟨hp, hm, hidle, hwraps, hctr⟩ := hovf
    exact ⟨hp, hm, hidle, (ctrWraps_iff _).mp hwraps.symm, hctr.trans (add_one_eq_zero_of_ctrWraps hwraps.symm)⟩
  · obtain hsame | ⟨-, hload⟩ | ⟨hp, hm, hidle, -, -⟩ := hovf
    · rw [h0, h1] at hsame
      cases hsame
    · exact .inl hload
    · exact .inr ⟨hp, hm, hidle⟩

end Sys2Proof.Machine
end

section
/-! PROOFS of the state statements (10_state.md R39, R40): reset, and the invariant of reachable states. -/

namespace Sys2Proof.Machine

/-! ### Reset -/

/-- Settles O49: no result region is read while idle, and each clause of the window is a register at its reset value. -/
theorem resetWindowReadsZero : Obligations.ResetWindowReadsZero := by
  intro a ha
  have idle : readByte State.reset a = windowByte State.reset a := rfl
  rw [idle]
  simp [windowByte, State.reset, statusByte, State.busy, flagBit, configByte, klenCode, ha]

/-- Settles O50: reset is idle and without a key, so only the error record has content. -/
theorem resetMeetsInvariant : Obligations.ResetMeetsInvariant where
  kx := nofun
  engine := nofun
  dec := nofun
  ctr := nofun
  record := by decide
  schedule := nofun
  overflow := nofun

/-- After a reset taken as a turn, with any contents of `RK`. -/
theorem inv_hostReset (s : State) : Inv (hostReset s) :=
  ⟨nofun, nofun, nofun, nofun, resetMeetsInvariant.record, nofun, nofun⟩

/-- The inverse cipher runs only for the decrypting direction of ECB and CBC (44_mode_controller.md R235). -/
theorem decrypts_of_enginePhase_dec {mode : OpMode} {dir : OpDir} (h : enginePhase mode dir = .dec) :
    latchedDir mode dir = .decrypt ∧ (mode = .ecb ∨ mode = .cbc) := by
  cases dir with
  | encrypt => cases mode <;> cases h
  | decrypt =>
    cases mode with
    | ecb => exact ⟨rfl, .inl rfl⟩
    | cbc => exact ⟨rfl, .inr rfl⟩
    | ctr => cases h

/-! ### What does not touch the invariant -/

namespace Inv

variable {s : State} (h : Inv s)
include h

/-- The invariant says nothing of the turns to come. -/
theorem setPending (rest : List Turn) : Inv { s with pending := rest } :=
  ⟨h.kx, h.engine, h.dec, h.ctr, h.record, h.schedule, h.overflow⟩

/-- A host read writes no register (20_memory.md R65). -/
theorem hostRead (a : Addr) : Inv (hostRead a s) :=
  ⟨h.kx, h.engine, h.dec, h.ctr, h.record, h.schedule, h.overflow⟩

/-- `DIN` may hold anything. -/
theorem setDin (din : Block) : Inv { s with din := din } :=
  ⟨h.kx, h.engine, h.dec, h.ctr, h.record, h.schedule, h.overflow⟩

/-- `CHAIN` may hold anything. -/
theorem setChain (chain : Block) : Inv { s with chain := chain } :=
  ⟨h.kx, h.engine, h.dec, h.ctr, h.record, h.schedule, h.overflow⟩

/-- The error record stands apart from the other registers. -/
theorem setRecord {e : Bool} {code info : Byte}
    (hrec : (e = false ↔ code = 0) ∧ (e = false → info = 0) ∧ code.toNat ≤ 7) :
    Inv { s with err := e, errcode := code, errinfo := info } :=
  ⟨h.kx, h.engine, h.dec, h.ctr, hrec, h.schedule, h.overflow⟩

/-- An error entry leaves a record that agrees with `ERR` (60_exceptions.md R281, R289). -/
theorem raise (c : ErrCause) (info : Byte) : Inv { s with err := true, errcode := causeCode c, errinfo := info } := by
  have hcode : causeCode c ≠ 0 ∧ (causeCode c).toNat ≤ 7 := by cases c <;> decide
  exact h.setRecord ⟨⟨nofun, fun e => absurd e hcode.1⟩, nofun, hcode.2⟩

/-- While `BUSY = 0` the key may be overwritten: the words already made stay those of the old one. -/
theorem setKey (hb : s.busy = false) (key : Vector Byte 32) : Inv { s with key := key } where
  kx hp := absurd hp (by simp [(not_busy_iff s).mp hb])
  engine := h.engine
  dec := h.dec
  ctr := h.ctr
  record := h.record
  schedule := h.schedule
  overflow := h.overflow

/-! ### Commands -/

/-- `LOADNONCE` clears `CTR_OVF` with `CTR`. -/
theorem loadNonce (nonce : Vector Byte 8) : Inv { s with nonce := nonce, ctr := 0, ctrOvf := false } where
  kx := h.kx
  engine := h.engine
  dec := h.dec
  ctr hp hm := ⟨(h.ctr hp hm).1, rfl⟩
  record := h.record
  schedule := h.schedule
  overflow := nofun

/-- After the acceptance of a `KEYEXP` no word is made and there is no key. -/
theorem keyexpAccept (kl : KeyLen) : Inv (keyexpAccept kl s) where
  kx _ := ⟨rfl, nwOf_pos kl, by simp⟩
  engine := nofun
  dec := nofun
  ctr := nofun
  record := h.record
  schedule := nofun
  overflow := h.overflow

/-- After the acceptance of a block command (44_mode_controller.md R235). -/
theorem blockStart {mode : OpMode} {dir : OpDir} {len : Fin 17} (hk : s.kvalid = true)
    (ho : mode = .ctr → s.ctrOvf = false) (hl : 1 ≤ len.val) (hl' : mode ≠ .ctr → len = 16) :
    Inv (blockStart mode dir len s) where
  kx hp := by
    rcases enginePhase_cases mode dir with e | e <;> rw [blockStart_phase, e] at hp <;> cases hp
  engine _ := by
    refine ⟨hk, rfl, ?_, hl, hl'⟩
    simp only [blockStart_rnd, blockStart_klen, firstRound]
    split <;> simp
  dec hp := decrypts_of_enginePhase_dec hp
  ctr _ hm := by
    cases hm
    exact ⟨rfl, ho rfl⟩
  record := h.record
  schedule := h.schedule
  overflow := h.overflow

/-- Every command keeps the invariant. -/
theorem command {v : Byte} {t : State} (hc : CommandEffect v s t) : Inv t := by
  cases hc with
  | nothing => exact h
  | error c _ => exact h.raise c v
  | clear _ => exact h.setRecord ⟨⟨fun _ => rfl, fun _ => rfl⟩, fun _ => rfl, by decide⟩
  | loadiv => exact h.setChain s.din
  | loadnonce => exact h.loadNonce (dinNonce s.din)
  | keyexp kl => exact h.keyexpAccept kl
  | block _ _ _ _ _ hk ho _ _ hl hl' _ => exact h.blockStart hk ho hl hl'

/-! ### The block's own step -/

/-- A key expansion step makes the part of `RK` that is the schedule of `KEY` one word longer; with the last word the
schedule is whole and `KVALID` may be set. -/
theorem kxStep (hp : s.phase = .kx) (hw : s.widx.val < nwOf s.klen) {rk : Vector Word 60} {widx : Fin 61}
    {kvalid : Bool} {phase : Phase}
    (hrk : rk = s.rk.set s.widx.val (kxWord s.rk.toList s.key s.widx.val (nkOf s.klen))
      (Nat.lt_of_lt_of_le hw (nwOf_le _)))
    (hwi : widx.val = s.widx.val + 1)
    (hkv : kvalid = if s.widx.val + 1 = nwOf s.klen then true else s.kvalid)
    (hph : phase = if s.widx.val + 1 = nwOf s.klen then .idle else .kx) :
    Inv { s with rk := rk, widx := widx, kvalid := kvalid, phase := phase } := by
  obtain ⟨hk, -, hmade⟩ := h.kx hp
  have hwords : rk.toList.take (s.widx.val + 1) = expandWords s.key (nkOf s.klen) (s.widx.val + 1) := by
    rw [scheduleOf_eq, take_expandWords _ _ _ _ hw.le] at hmade
    rw [hrk]
    exact take_kxWord s.rk s.key s.klen s.widx.val _ hmade
  by_cases last : s.widx.val + 1 = nwOf s.klen
  · rw [if_pos last] at hkv hph
    subst hkv hph
    refine ⟨nofun, nofun, nofun, nofun, h.record, fun _ => ⟨s.key, ?_⟩, h.overflow⟩
    rw [last] at hwords
    exact hwords
  · rw [if_neg last] at hkv hph
    subst hkv hph
    refine ⟨fun _ => ⟨hk, ?_, ?_⟩, nofun, nofun, nofun, h.record, fun hv => (nomatch hk.symm.trans hv), h.overflow⟩
    · show widx.val < nwOf s.klen
      omega
    · show rk.toList.take widx.val = (scheduleOf s.klen s.key).take widx.val
      rw [hwi, hwords, scheduleOf_eq, take_expandWords _ _ _ _ hw]

/-- A round that is not the last moves `S` and `RND` only. -/
theorem setRound {r : Fin 15} (sreg : Block) (hk : s.phase ≠ .kx) (hr : r.val ≤ (nrOf s.klen).val) :
    Inv { s with sreg := sreg, rnd := r } where
  kx hp := absurd hp hk
  engine hp :=
    have ⟨hkv, hdv, _, hlen⟩ := h.engine hp
    ⟨hkv, hdv, hr, hlen⟩
  dec := h.dec
  ctr := h.ctr
  record := h.record
  schedule := h.schedule
  overflow := h.overflow

/-- After the finish step of a block command, which sets `CTR_OVF` only as `CTR` wraps to 0 (44_mode_controller.md R236). -/
theorem finish (b b' : Block) : Inv (finish b { s with sreg := b' }) where
  kx := nofun
  engine := nofun
  dec := nofun
  ctr := nofun
  record := h.record
  schedule := h.schedule
  overflow ho := by
    by_cases hm : s.opmode = .ctr
    · simp only [finish_ctrOvf, finish_ctr, hm, beq_self_eq_true, if_true] at ho ⊢
      exact add_one_eq_zero_of_ctrWraps ho
    · simp only [finish_ctrOvf, finish_ctr, beq_iff_eq, hm, if_false] at ho ⊢
      exact h.overflow ho

/-- Every step of the block keeps the invariant. -/
theorem block {t : State} (hb : BlockEffect s t) : Inv t := by
  cases hb with
  | idle => exact h
  | kx hp hw _ _ _ _ hrk hwi hkv hph => exact h.kxStep hp hw hrk hwi hkv hph
  | encMiddle hp hr r hr' => exact h.setRound _ (by simp [hp]) (by omega)
  | decMiddle hp hr r hr' => exact h.setRound _ (by simp [hp]) (by omega)
  | encLast | decLast => exact h.finish _ _

end Inv

/-! ### Every transition -/

/-- Settles O51: one lemma for each kind of transition, over the state with the turn taken off. -/
theorem stepKeepsInvariant : Obligations.StepKeepsInvariant := by
  intro s t h hstep
  cases step_effect s t hstep with
  | engine rest _ _ hb => exact (h.setPending rest).block hb
  | silent _ _ hb => exact h.block hb
  | read a rest => exact (h.setPending rest).hostRead a
  | reset rest => exact inv_hostReset _
  | busyError _ v rest => exact (h.setPending rest).raise .busy v
  | busyDrop _ _ rest => exact h.setPending rest
  | command _ rest _ _ _ hc => exact (h.setPending rest).command hc
  | key _ _ rest _ hb => exact (h.setPending rest).setKey hb _
  | din _ _ rest => exact (h.setPending rest).setDin _
  | ignored _ _ rest => exact h.setPending rest

/-- In a state of the invariant the block's step answers a next state. -/
theorem Inv.blockStep_answers {s : State} (h : Inv s) : ∃ t, blockStep s = .next t :=
  Machine.blockStep_answers (fun hp => (h.kx hp).2.1) fun hp => (h.engine hp).2.2.1

/-- Settles O52: the host's turns are always answered, and the block's are in a state of the invariant. -/
theorem invariantStatesNeverStop : Obligations.InvariantStatesNeverStop := by
  intro s h
  cases hp : s.pending with
  | nil =>
    rw [step_of_no_pending s hp]
    exact h.blockStep_answers
  | cons u rest =>
    rw [step_of_pending s u rest hp]
    cases u with
    | write a v => exact hostWrite_answers a v _
    | read a => exact ⟨_, rfl⟩
    | reset => exact ⟨_, rfl⟩
    | engine => exact (h.setPending rest).blockStep_answers

end Sys2Proof.Machine
end

section
/-! PROOFS of the state statements (10_state.md R27, R29, R30, R38): the leftovers affect nothing. One step commutes with
wiping the leftovers, up to the leftovers of the next state; so two states that are equal once wiped step alike. -/

namespace Sys2Proof.Machine

/-! ### Wiping, by phase -/

/-- What `wipeLeftovers` wipes in phase `p`. -/
def wipeAs (p : Phase) (s : State) : State :=
  match p with
  | .idle => { s with sreg := zeroBytes 16, widx := 0, rnd := 0, opmode := .ecb, opdir := .encrypt, oplen := 0 }
  | .kx => { s with sreg := zeroBytes 16, rnd := 0, opmode := .ecb, opdir := .encrypt, oplen := 0 }
  | .enc => { s with widx := 0 }
  | .dec => { s with widx := 0 }

theorem wipeLeftovers_eq_wipeAs (s : State) : wipeLeftovers s = wipeAs s.phase s := by
  cases h : s.phase <;> simp only [wipeLeftovers, wipeAs, h]

/-- Two states of one phase are equal once wiped if they are when wiped as in that phase. -/
theorem wipeLeftovers_congr {s t : State} {p : Phase} (hs : s.phase = p) (ht : t.phase = p)
    (h : wipeAs p s = wipeAs p t) : wipeLeftovers s = wipeLeftovers t := by
  rw [wipeLeftovers_eq_wipeAs, wipeLeftovers_eq_wipeAs, hs, ht, h]

@[simp] theorem wipeLeftovers_phase (s : State) : (wipeLeftovers s).phase = s.phase := by
  unfold wipeLeftovers; split <;> rfl
@[simp] theorem wipeLeftovers_err (s : State) : (wipeLeftovers s).err = s.err := by
  unfold wipeLeftovers; split <;> rfl
@[simp] theorem wipeLeftovers_kvalid (s : State) : (wipeLeftovers s).kvalid = s.kvalid := by
  unfold wipeLeftovers; split <;> rfl
@[simp] theorem wipeLeftovers_ctrOvf (s : State) : (wipeLeftovers s).ctrOvf = s.ctrOvf := by
  unfold wipeLeftovers; split <;> rfl
@[simp] theorem wipeLeftovers_replies (s : State) : (wipeLeftovers s).replies = s.replies := by
  unfold wipeLeftovers; split <;> rfl
@[simp] theorem wipeLeftovers_pending (s : State) : (wipeLeftovers s).pending = s.pending := by
  unfold wipeLeftovers; split <;> rfl
@[simp] theorem wipeLeftovers_busy (s : State) : (wipeLeftovers s).busy = s.busy :=
  busy_congr _ _ (wipeLeftovers_phase s)

/-- The turns to come are no leftover. -/
theorem wipeLeftovers_setPending (s : State) (rest : List Turn) :
    { wipeLeftovers s with pending := rest } = wipeLeftovers { s with pending := rest } := by
  have comm : ∀ p, { wipeAs p s with pending := rest } = wipeAs p { s with pending := rest } := fun p => by
    cases p <;> rfl
  rw [wipeLeftovers_eq_wipeAs, wipeLeftovers_eq_wipeAs]
  exact comm s.phase

/-! ### Updates that do not look at leftovers -/

/-- The update `f` neither reads a leftover nor makes one matter: its result, wiped, is the same from the wiped state. -/
def IgnoresLeftovers (f : State → State) : Prop := ∀ s, wipeLeftovers (f (wipeLeftovers s)) = wipeLeftovers (f s)

/-- An update that keeps `PHASE` and commutes with the wiping of every phase ignores the leftovers. -/
theorem IgnoresLeftovers.of_comm {f : State → State} (hphase : ∀ s, (f s).phase = s.phase)
    (h : ∀ p s, f (wipeAs p s) = wipeAs p (f s)) : IgnoresLeftovers f := fun s => by
  refine wipeLeftovers_congr ((hphase _).trans (wipeLeftovers_phase s)) (hphase s) ?_
  rw [wipeLeftovers_eq_wipeAs, h]
  cases s.phase <;> rfl

theorem ignoresLeftovers_id : IgnoresLeftovers id := .of_comm (fun _ => rfl) fun _ _ => rfl

theorem ignoresLeftovers_raiseErr (c : ErrCause) (v : Byte) : IgnoresLeftovers (raiseErr c v) := by
  refine .of_comm (raiseErr_phase c v) fun p s => ?_
  have herr : (wipeAs p s).err = s.err := by cases p <;> rfl
  cases he : s.err with
  | true => rw [raiseErr_of_set _ _ _ he, raiseErr_of_set _ _ _ (herr.trans he)]
  | false =>
    rw [raiseErr_of_clear _ _ _ he, raiseErr_of_clear _ _ _ (herr.trans he)]
    cases p <;> rfl

theorem ignoresLeftovers_clearErr : IgnoresLeftovers clearErr :=
  .of_comm clearErr_phase fun p _ => by cases p <;> rfl

theorem ignoresLeftovers_loadChain : IgnoresLeftovers loadChain :=
  .of_comm loadChain_phase fun p _ => by cases p <;> rfl

theorem ignoresLeftovers_loadNonce : IgnoresLeftovers loadNonce :=
  .of_comm loadNonce_phase fun p _ => by cases p <;> rfl

/-- No byte of the window shows a leftover (10_state.md R38). -/
theorem ignoresLeftovers_hostRead (a : Addr) : IgnoresLeftovers (hostRead a) :=
  .of_comm (hostRead_phase a) fun p _ => by cases p <;> rfl

theorem storeByte_phase (a : Addr) (v : Byte) (s : State) : (storeByte a v s).phase = s.phase := by
  unfold storeByte
  split
  · rfl
  · split <;> rfl

theorem ignoresLeftovers_storeByte (a : Addr) (v : Byte) : IgnoresLeftovers (storeByte a v) := by
  refine .of_comm (storeByte_phase a v) fun p s => ?_
  unfold storeByte
  split
  · cases p <;> rfl
  · split
    · cases p <;> rfl
    · rfl

/-- Reset reads the host's side only. -/
theorem ignoresLeftovers_hostReset : IgnoresLeftovers hostReset := fun s => by
  rw [wipeLeftovers_eq_wipeAs s]
  cases s.phase <;> rfl

/-- `KEYEXP` starts `WIDX` afresh, and the other leftovers stay leftovers. -/
theorem ignoresLeftovers_keyexpAccept (kl : KeyLen) : IgnoresLeftovers (keyexpAccept kl) := fun s => by
  refine wipeLeftovers_congr (keyexpAccept_phase kl _) (keyexpAccept_phase kl _) ?_
  rw [wipeLeftovers_eq_wipeAs s]
  cases s.phase <;> rfl

/-- A block command starts every engine register afresh, and `WIDX` becomes a leftover. -/
theorem ignoresLeftovers_blockStart (mode : OpMode) (dir : OpDir) (len : Fin 17) :
    IgnoresLeftovers (blockStart mode dir len) := fun s => by
  refine wipeLeftovers_congr (blockStart_phase mode dir len _) (blockStart_phase mode dir len _) ?_
  rw [wipeLeftovers_eq_wipeAs s]
  obtain e | e := enginePhase_cases mode dir
  · rw [e]
    cases s.phase <;> rfl
  · rw [e]
    cases s.phase <;> rfl

/-- A choice by something that is no leftover, between updates that ignore the leftovers. -/
theorem ignoresLeftovers_ite {p : State → Bool} {f g : State → State} (hp : ∀ s, p (wipeLeftovers s) = p s)
    (hf : IgnoresLeftovers f) (hg : IgnoresLeftovers g) : IgnoresLeftovers fun s => if p s then f s else g s := by
  intro s
  simp only [hp]
  split
  · exact hf s
  · exact hg s

theorem ignoresLeftovers_blockAccept (v : Byte) (mode : OpMode) (dir : OpDir) (len : Fin 17) :
    IgnoresLeftovers (blockAccept v mode dir len) :=
  ignoresLeftovers_ite (fun s => by simp) (ignoresLeftovers_raiseErr .nokey v) <|
    ignoresLeftovers_ite (fun s => by simp) (ignoresLeftovers_raiseErr .ctrovf v)
      (ignoresLeftovers_blockStart mode dir len)

theorem ignoresLeftovers_ctrPartAccept (n : BitVec 4) : IgnoresLeftovers (ctrPartAccept n) :=
  ignoresLeftovers_ite (fun _ => rfl) (ignoresLeftovers_raiseErr .empty _) (ignoresLeftovers_blockAccept _ _ _ _)

theorem IgnoresLeftovers.guarded {act : State → State} (h : IgnoresLeftovers act) (v : Byte) :
    IgnoresLeftovers (guarded v act) :=
  ignoresLeftovers_ite wipeLeftovers_busy (ignoresLeftovers_raiseErr .busy v) <|
    ignoresLeftovers_ite wipeLeftovers_err ignoresLeftovers_id h

theorem IgnoresLeftovers.unlessBusy {act : State → State} (h : IgnoresLeftovers act) (v : Byte) :
    IgnoresLeftovers (unlessBusy v act) :=
  ignoresLeftovers_ite wipeLeftovers_busy (ignoresLeftovers_raiseErr .busy v) h

/-! ### Transitions -/

/-- An outcome with the leftovers of its next state wiped. -/
def wipeOutcome (o : Host.Outcome State Fault Refusal) : Host.Outcome State Fault Refusal :=
  match o with
  | .next t => .next (wipeLeftovers t)
  | .fault r => .fault r
  | .refused r => .refused r

/-- Only a next state is wiped to a next state. -/
theorem eq_next_of_wipeOutcome {o : Host.Outcome State Fault Refusal} {u : State} (h : wipeOutcome o = .next u) :
    ∃ t, o = .next t ∧ wipeLeftovers t = u := by
  cases o with
  | next t => exact ⟨t, rfl, Host.Outcome.next.inj h⟩
  | fault r => cases h
  | refused r => cases h

/-- An update that ignores the leftovers, as an outcome. -/
theorem IgnoresLeftovers.outcome {f : State → State} (h : IgnoresLeftovers f) (s : State) :
    wipeOutcome (.next (f (wipeLeftovers s))) = wipeOutcome (.next (f s)) := congrArg Host.Outcome.next (h s)

theorem wipeOutcome_exec (i : Instr) (s : State) : wipeOutcome (exec i (wipeLeftovers s)) = wipeOutcome (exec i s) := by
  cases i with
  | nop => exact (ignoresLeftovers_id.unlessBusy _).outcome s
  | clrerr => exact (ignoresLeftovers_clearErr.unlessBusy _).outcome s
  | keyexp128 | keyexp192 | keyexp256 => exact ((ignoresLeftovers_keyexpAccept _).guarded _).outcome s
  | loadiv => exact (ignoresLeftovers_loadChain.guarded _).outcome s
  | loadnonce => exact (ignoresLeftovers_loadNonce.guarded _).outcome s
  | ecbEnc | ecbDec | cbcEnc | cbcDec | ctrBlk dir =>
    exact ((ignoresLeftovers_blockAccept _ _ _ _).guarded _).outcome s
  | ctrPart n => exact ((ignoresLeftovers_ctrPartAccept n).guarded _).outcome s

theorem wipeOutcome_execute (v : Byte) (s : State) :
    wipeOutcome (execute v (wipeLeftovers s)) = wipeOutcome (execute v s) := by
  unfold execute
  split
  · exact wipeOutcome_exec _ s
  · exact ((ignoresLeftovers_raiseErr _ v).guarded v).outcome s

theorem wipeOutcome_hostWrite (a : Addr) (v : Byte) (s : State) :
    wipeOutcome (hostWrite a v (wipeLeftovers s)) = wipeOutcome (hostWrite a v s) := by
  unfold hostWrite
  rw [wipeLeftovers_busy]
  split
  · exact (ignoresLeftovers_raiseErr .busy v).outcome s
  · split
    · exact wipeOutcome_execute v s
    · exact (ignoresLeftovers_storeByte a v).outcome s

/-- A key expansion step reads no engine register; after the last one `WIDX` is a leftover too. -/
theorem wipeOutcome_kxStep {s : State} (hp : s.phase = .kx) :
    wipeOutcome (kxStep (wipeLeftovers s)) = wipeOutcome (kxStep s) := by
  rw [wipeLeftovers_eq_wipeAs, hp]
  obtain hw | hw := lt_or_ge s.widx.val (nwOf s.klen)
  · rw [kxStep_of_lt hw, kxStep_of_lt (s := wipeAs .kx s) hw]
    refine congrArg Host.Outcome.next ?_
    by_cases last : s.widx.val + 1 = nwOf s.klen
    · exact wipeLeftovers_congr (if_pos last) (if_pos last) rfl
    · exact wipeLeftovers_congr ((if_neg last).trans hp) ((if_neg last).trans hp) rfl
  · rw [kxStep_of_le hw, kxStep_of_le (s := wipeAs .kx s) hw]

/-- A round of the forward cipher does not read `WIDX`. -/
theorem wipeOutcome_encStep {s : State} (hp : s.phase = .enc) :
    wipeOutcome (encStep (wipeLeftovers s)) = wipeOutcome (encStep s) := by
  rw [wipeLeftovers_eq_wipeAs, hp]
  obtain hr | hr | hr := lt_trichotomy s.rnd.val (nrOf s.klen).val
  · rw [encStep_of_lt hr, encStep_of_lt (s := wipeAs .enc s) hr]
    exact congrArg Host.Outcome.next (wipeLeftovers_congr hp hp rfl)
  · rw [encStep_of_eq hr, encStep_of_eq (s := wipeAs .enc s) hr]
    exact congrArg Host.Outcome.next (wipeLeftovers_congr (finish_phase _ _) (finish_phase _ _) rfl)
  · rw [encStep_of_gt hr, encStep_of_gt (s := wipeAs .enc s) hr]

/-- A round of the inverse cipher does not read `WIDX`. -/
theorem wipeOutcome_decStep {s : State} (hp : s.phase = .dec) :
    wipeOutcome (decStep (wipeLeftovers s)) = wipeOutcome (decStep s) := by
  rw [wipeLeftovers_eq_wipeAs, hp]
  obtain hr | hr := le_or_gt s.rnd.val (nrOf s.klen).val
  · by_cases h0 : s.rnd.val = 0
    · rw [decStep_of_zero h0, decStep_of_zero (s := wipeAs .dec s) h0]
      exact congrArg Host.Outcome.next (wipeLeftovers_congr (finish_phase _ _) (finish_phase _ _) rfl)
    · rw [decStep_of_pos h0 hr, decStep_of_pos (s := wipeAs .dec s) h0 hr]
      exact congrArg Host.Outcome.next (wipeLeftovers_congr hp hp rfl)
  · rw [decStep_of_gt hr, decStep_of_gt (s := wipeAs .dec s) hr]

theorem wipeOutcome_blockStep (s : State) : wipeOutcome (blockStep (wipeLeftovers s)) = wipeOutcome (blockStep s) := by
  unfold blockStep
  rw [wipeLeftovers_phase]
  split
  · exact ignoresLeftovers_id.outcome s
  · next hp => exact wipeOutcome_kxStep hp
  · next hp => exact wipeOutcome_encStep hp
  · next hp => exact wipeOutcome_decStep hp

theorem wipeOutcome_takeTurn (u : Turn) (s : State) :
    wipeOutcome (takeTurn u (wipeLeftovers s)) = wipeOutcome (takeTurn u s) := by
  cases u with
  | write a v => exact wipeOutcome_hostWrite a v s
  | read a => exact (ignoresLeftovers_hostRead a).outcome s
  | reset => exact ignoresLeftovers_hostReset.outcome s
  | engine => exact wipeOutcome_blockStep s

/-- One step from the wiped state gives what one step from the state gives, up to leftovers. -/
theorem wipeOutcome_step (s : State) : wipeOutcome (step (wipeLeftovers s)) = wipeOutcome (step s) := by
  cases hp : s.pending with
  | nil =>
    rw [step_of_no_pending s hp, step_of_no_pending _ ((wipeLeftovers_pending s).trans hp)]
    exact wipeOutcome_blockStep s
  | cons u rest =>
    rw [step_of_pending s u rest hp, step_of_pending _ u rest ((wipeLeftovers_pending s).trans hp),
      wipeLeftovers_setPending]
    exact wipeOutcome_takeTurn u _

/-- Settles O55: both states step as their common wiped state does, and the replies are no leftover. -/
theorem leftoversAreUnobservable : Obligations.LeftoversAreUnobservable := by
  intro s t s' hst hstep
  have hwiped : wipeOutcome (step t) = .next (wipeLeftovers s') :=
    calc wipeOutcome (step t) = wipeOutcome (step (wipeLeftovers t)) := (wipeOutcome_step t).symm
      _ = wipeOutcome (step (wipeLeftovers s)) := by rw [hst]
      _ = wipeOutcome (step s) := wipeOutcome_step s
      _ = .next (wipeLeftovers s') := by rw [hstep]; rfl
  obtain ⟨t', ht, hwipe⟩ := eq_next_of_wipeOutcome hwiped
  refine ⟨t', ht, hwipe.symm, ?_⟩
  rw [← wipeLeftovers_replies s', ← hwipe, wipeLeftovers_replies]

end Sys2Proof.Machine
end

section
/-! PROOFS of the window statements (20_memory.md): the laws of the host's transactions that the statements below use. What
a host write does by `BUSY` and by its address, and which byte of the registers each address shows. -/

namespace Sys2Proof.Machine

/-! ### Commands -/

/-- 30_encoding.md R98: a byte that decodes is the byte of its command. -/
theorem encode_of_decode {v : Byte} {i : Instr} (h : decode v = .ok i) : encode i = v := by
  have all_bytes : ∀ v : Byte, (decode v).toOption.all (encode · == v) = true := by decide +kernel
  simpa [h, Except.toOption] using all_bytes v

/-- Every command tests `BUSY` itself (log 16). -/
theorem exec_of_busy (i : Instr) {s : State} (hb : s.busy = true) :
    exec i s = .next (raiseErr .busy (encode i) s) := by
  cases i with
  | nop | clrerr => exact congrArg Host.Outcome.next (unlessBusy_of_busy _ _ s hb)
  | _ => exact congrArg Host.Outcome.next (guarded_of_busy _ _ s hb)

theorem execute_of_decode {v : Byte} {i : Instr} (h : decode v = .ok i) (s : State) : execute v s = exec i s := by
  unfold execute
  rw [h]

/-! ### Host writes -/

/-- A write while `BUSY = 1` is discarded and recorded (20_memory.md R67). -/
theorem hostWrite_of_busy (a : Addr) (v : Byte) {s : State} (hb : s.busy = true) :
    hostWrite a v s = .next (raiseErr .busy v s) :=
  if_pos hb

/-- A write to `CMD` while `BUSY = 0` is executed (20_memory.md R69). -/
theorem hostWrite_cmd (v : Byte) {s : State} (hb : s.busy = false) : hostWrite 0x000 v s = execute v s :=
  (if_neg (by simp [hb])).trans (if_pos rfl)

/-- A write elsewhere while `BUSY = 0` goes to the registers (20_memory.md R68, R70). -/
theorem hostWrite_data {a : Addr} (v : Byte) {s : State} (hb : s.busy = false) (ha : a.toNat ≠ 0x000) :
    hostWrite a v s = .next (storeByte a v s) :=
  (if_neg (by simp [hb])).trans (if_neg ha)

/-- The host's write of a command is its meaning, whatever `BUSY` is (log 16). -/
theorem hostWrite_of_decode {v : Byte} {i : Instr} (h : decode v = .ok i) (s : State) :
    hostWrite 0x000 v s = exec i s := by
  cases hb : s.busy with
  | true => rw [hostWrite_of_busy _ _ hb, exec_of_busy i hb, encode_of_decode h]
  | false => rw [hostWrite_cmd v hb, execute_of_decode h]

theorem storeByte_key {a : Addr} {k : Fin 32} (ha : a.toNat = 0x010 + k.val) (v : Byte) (s : State) :
    storeByte a v s = { s with key := s.key.set k.val v } := by
  unfold storeByte
  simp (disch := omega) only [dif_pos, ha, Nat.add_sub_cancel_left]

theorem storeByte_din {a : Addr} {k : Fin 16} (ha : a.toNat = 0x030 + k.val) (v : Byte) (s : State) :
    storeByte a v s = { s with din := s.din.set k.val v } := by
  unfold storeByte
  simp (disch := omega) only [dif_neg, dif_pos, ha, Nat.add_sub_cancel_left]

theorem storeByte_readOnly {a : Addr} (ha : a.toNat ≤ 0x00F ∨ 0x040 ≤ a.toNat) (v : Byte) (s : State) :
    storeByte a v s = s :=
  (dif_neg (by omega)).trans (dif_neg (by omega))

/-- The step of an idle state whose first turn is a host write outside `CMD`. -/
theorem step_of_pending_store {s : State} {a : Addr} {v : Byte} {rest : List Turn} (hb : s.busy = false)
    (hp : s.pending = .write a v :: rest) (ha : a.toNat ≠ 0x000) :
    step s = .next (storeByte a v { s with pending := rest }) := by
  rw [step_of_pending s _ rest hp]
  exact hostWrite_data v hb ha

/-- A vector after one write, byte by byte. -/
theorem getElem_set_fin {α : Type} {n : Nat} (x : Vector α n) (k j : Fin n) (v : α) :
    (x.set k.val v)[j.val] = if j = k then v else x[j.val] := by
  rw [Vector.getElem_set]
  simp only [Fin.ext_iff, eq_comm]

/-! ### Host reads -/

/-- The step of a state whose first turn is a host read. -/
theorem step_of_pending_read {s : State} {a : Addr} {rest : List Turn} (hp : s.pending = .read a :: rest) :
    step s = .next (hostRead a { s with pending := rest }) :=
  step_of_pending s _ rest hp

theorem readByte_of_idle {s : State} (hb : s.busy = false) (a : Addr) : readByte s a = windowByte s a := by
  simp [readByte, hb]

/-- Outside the result regions a read shows the registers also while `BUSY = 1` (20_memory.md R64). -/
theorem readByte_of_not_result (s : State) {a : Addr} (ha : a.toNat < 0x040 ∨ (0x070 ≤ a.toNat ∧ a.toNat < 0x100) ∨
    0x1F0 ≤ a.toNat) : readByte s a = windowByte s a := by
  have hr : isResultAddr a = false := by
    simp only [isResultAddr, Bool.or_eq_false_iff, Bool.and_eq_false_iff, decide_eq_false_iff_not]
    omega
  simp [readByte, hr]

section
variable (s : State) {a : Addr}

theorem windowByte_cmd (ha : a.toNat = 0x000) : windowByte s a = 0x00 := by simp [windowByte, ha]

theorem windowByte_status (ha : a.toNat = 0x001) : windowByte s a = statusByte s := by simp [windowByte, ha]

theorem windowByte_config (ha : a.toNat = 0x002) : windowByte s a = configByte s := by simp [windowByte, ha]

theorem windowByte_errcode (ha : a.toNat = 0x003) : windowByte s a = s.errcode := by simp [windowByte, ha]

theorem windowByte_errinfo (ha : a.toNat = 0x004) : windowByte s a = s.errinfo := by simp [windowByte, ha]

theorem windowByte_reserved (ha : (0x005 ≤ a.toNat ∧ a.toNat ≤ 0x00F) ∨ (0x070 ≤ a.toNat ∧ a.toNat ≤ 0x0FF) ∨
    0x1F0 ≤ a.toNat) : windowByte s a = 0x00 := by
  unfold windowByte
  simp (disch := omega) only [if_neg, dif_neg]

theorem windowByte_key {k : Fin 32} (ha : a.toNat = 0x010 + k.val) : windowByte s a = s.key[k.val] := by
  unfold windowByte
  simp (disch := omega) only [if_neg, dif_pos, ha, Nat.add_sub_cancel_left]

theorem windowByte_din {k : Fin 16} (ha : a.toNat = 0x030 + k.val) : windowByte s a = s.din[k.val] := by
  unfold windowByte
  simp (disch := omega) only [if_neg, dif_neg, dif_pos, ha, Nat.add_sub_cancel_left]

theorem windowByte_dout {k : Fin 16} (ha : a.toNat = 0x040 + k.val) : windowByte s a = s.dout[k.val] := by
  unfold windowByte
  simp (disch := omega) only [if_neg, dif_neg, dif_pos, ha, Nat.add_sub_cancel_left]

theorem windowByte_chain {k : Fin 16} (ha : a.toNat = 0x050 + k.val) : windowByte s a = s.chain[k.val] := by
  unfold windowByte
  simp (disch := omega) only [if_neg, dif_neg, dif_pos, ha, Nat.add_sub_cancel_left]

theorem windowByte_nonce {k : Fin 8} (ha : a.toNat = 0x060 + k.val) : windowByte s a = s.nonce[k.val] := by
  unfold windowByte
  simp (disch := omega) only [if_neg, dif_neg, dif_pos, ha, Nat.add_sub_cancel_left]

/-- `CTR` is shown most significant byte first (20_memory.md R66). -/
theorem windowByte_ctr {k : Fin 8} (ha : a.toNat = 0x068 + k.val) :
    (windowByte s a).toNat = s.ctr.toNat / 2 ^ (8 * (7 - k.val)) % 256 := by
  have hk : 0x06F - a.toNat = 7 - k.val := by omega
  unfold windowByte
  simp (disch := omega) only [if_neg, dif_neg, if_pos]
  rw [hk, BitVec.toNat_setWidth, BitVec.toNat_ushiftRight, Nat.shiftRight_eq_div_pow]

theorem windowByte_rk {i : Fin 60} {j : Fin 4} (ha : a.toNat = 0x100 + 4 * i.val + j.val) :
    windowByte s a = (s.rk[i.val])[j.val] := by
  have hi : (a.toNat - 0x100) / 4 = i.val := by omega
  have hj : (a.toNat - 0x100) % 4 = j.val := by omega
  unfold windowByte
  simp (disch := omega) only [if_neg, dif_neg, dif_pos, hi, hj]

end

/-- 10_state.md R31: each flag at its bit, the upper three bits zero. -/
theorem statusByte_bits (s : State) :
    (statusByte s).getLsbD 0 = s.busy ∧ (statusByte s).getLsbD 1 = s.kvalid ∧ (statusByte s).getLsbD 2 = s.doutValid ∧
    (statusByte s).getLsbD 3 = s.err ∧ (statusByte s).getLsbD 4 = s.ctrOvf ∧ (statusByte s).toNat < 32 := by
  unfold statusByte
  generalize s.busy = busy, s.kvalid = kvalid, s.doutValid = doutValid, s.err = err, s.ctrOvf = ctrOvf
  revert busy kvalid doutValid err ctrOvf
  decide

end Sys2Proof.Machine
end

section
/-! PROOFS of the window statements (20_memory.md): what the host's transactions do to the registers. -/

namespace Sys2Proof.Machine

/-- Settles O38: the step is the read, and the byte is read off the window region by region. -/
theorem hostReadReturnsRegister : Obligations.HostReadReturnsRegister := by
  intro s a rest hp
  refine ⟨readByte s a, _, step_of_pending_read hp, ?cmd, ?status, ?config, ?errcode, ?errinfo, ?reserved, ?key, ?din,
    ?results⟩
  case cmd => exact fun ha => (readByte_of_not_result s (by omega)).trans (windowByte_cmd s ha)
  case status =>
    intro ha
    rw [readByte_of_not_result s (by omega), windowByte_status s ha]
    exact statusByte_bits s
  case config =>
    intro ha
    rw [readByte_of_not_result s (by omega), windowByte_config s ha]
    unfold configByte
    cases s.klen <;> rfl
  case errcode => exact fun ha => (readByte_of_not_result s (by omega)).trans (windowByte_errcode s ha)
  case errinfo => exact fun ha => (readByte_of_not_result s (by omega)).trans (windowByte_errinfo s ha)
  case reserved => exact fun ha => (readByte_of_not_result s (by omega)).trans (windowByte_reserved s ha)
  case key => exact fun k ha => (readByte_of_not_result s (by omega)).trans (windowByte_key s ha)
  case din => exact fun k ha => (readByte_of_not_result s (by omega)).trans (windowByte_din s ha)
  case results =>
    intro hb
    rw [readByte_of_idle hb]
    exact ⟨fun _ => windowByte_dout s, fun _ => windowByte_chain s, fun _ => windowByte_nonce s,
      fun _ => windowByte_ctr s, fun _ _ => windowByte_rk s⟩

/-- Settles O39: the write goes to byte `k` of its register. -/
theorem dataWriteStoresByte : Obligations.DataWriteStoresByte := by
  intro s a v rest hb hp
  constructor
  · intro k ha
    exact ⟨s.key.set k.val v, by rw [step_of_pending_store hb hp (by omega), storeByte_key ha],
      fun j => getElem_set_fin s.key k j v⟩
  · intro k ha
    exact ⟨s.din.set k.val v, by rw [step_of_pending_store hb hp (by omega), storeByte_din ha],
      fun j => getElem_set_fin s.din k j v⟩

/-- Settles O40: neither register has the address. -/
theorem readOnlyWriteIsIgnored : Obligations.ReadOnlyWriteIsIgnored := by
  intro s a v rest hb hp ha
  rw [step_of_pending_store hb hp (by omega), storeByte_readOnly (by omega)]

theorem withFetchWord_eq (s : State) (v : Byte) :
    s.withFetchWord 8 v.toNat = { s with pending := .write 0x000 v :: s.pending } := by
  simp [State.withFetchWord, placeCommand, Nat.mod_eq_of_lt v.isLt]

/-- Settles O5: the write of a command is its meaning, and `withFetchWord` places that write. -/
theorem stepRunsWrittenCommand : Obligations.StepRunsWrittenCommand := by
  have run : ∀ (s : State) (v : Byte) (i : Instr) (rest : List Turn),
      s.pending = .write 0x000 v :: rest → decode v = .ok i → step s = exec i { s with pending := rest } := by
    intro s v i rest hp hd
    rw [step_of_pending s _ rest hp]
    exact hostWrite_of_decode hd _
  refine ⟨run, fun s v i hd => ?_⟩
  rw [withFetchWord_eq]
  exact run _ v i s.pending rfl hd

end Sys2Proof.Machine
end

section
/-! PROOFS of the window statements (20_memory.md R67, R76, R79): host reads and writes between the block's steps do not
disturb an operation in flight. The host's turns write the host's side of the state only, and the block's step neither
reads nor writes it. -/

namespace Sys2Proof.Machine

/-! ### Runs -/

/-- While `PHASE = IDLE` the block stays as it is. -/
theorem blockRun_of_idle {s : State} (hp : s.phase = .idle) (n : Nat) : blockRun n s = .next s := by
  induction n with
  | zero => rfl
  | succ n ih => rw [blockRun, blockStep_of_idle s hp]; exact ih

/-- A block that is busy after some of its steps was busy before them. -/
theorem busy_of_blockRun {n : Nat} {s u : State} (h : blockRun n s = .next u) (hu : u.busy = true) : s.busy = true := by
  by_contra hs
  rw [blockRun_of_idle ((not_busy_iff s).mp (by simpa using hs))] at h
  cases h
  exact hs hu

/-- The first step of a run of the block that ends in a state. -/
theorem blockRun_succ {n : Nat} {s u : State} (h : blockRun (n + 1) s = .next u) :
    ∃ t, blockStep s = .next t ∧ blockRun n t = .next u := by
  unfold blockRun at h
  split at h
  · next t ht => exact ⟨t, ht, h⟩
  · cases h
  · cases h

/-- A machine's run goes on from the next state of its first step. -/
theorem coreRun_succ_of_step {M : Host.Core} {s t : M.State} (h : M.step s = .next t) (n : Nat) :
    M.run (n + 1) s = M.run n t := by
  rw [Host.Core.run, h]

/-! ### The host's side -/

/-- What the host's reads and writes change while an operation runs: the error record and the model's own fields
(20_memory.md R65, R67; logs 1, 2, 5). -/
structure HostSide where
  err : Bool
  errcode : Byte
  errinfo : Byte
  pending : List Turn
  replies : List (Addr × Byte)
  draws : Nat

/-- `s` with `h` as the host's side. -/
def State.setHostSide (s : State) (h : HostSide) : State :=
  { s with
    err := h.err, errcode := h.errcode, errinfo := h.errinfo
    pending := h.pending, replies := h.replies, draws := h.draws }

/-- The host's side of `s`. -/
def State.hostSide (s : State) : HostSide := ⟨s.err, s.errcode, s.errinfo, s.pending, s.replies, s.draws⟩

@[simp] theorem setHostSide_phase (s : State) (h : HostSide) : (s.setHostSide h).phase = s.phase := rfl
@[simp] theorem setHostSide_busy (s : State) (h : HostSide) : (s.setHostSide h).busy = s.busy := rfl

/-- An error entry writes the host's side only (60_exceptions.md R289). -/
theorem raiseErr_eq_setHostSide (c : ErrCause) (v : Byte) (s : State) (turns : List Turn) :
    raiseErr c v { s with pending := turns } = s.setHostSide (raiseErr c v { s with pending := turns }).hostSide := by
  unfold raiseErr
  split <;> rfl

/-- The step of the block reads nothing of the host's side, and writes nothing of it. -/
theorem blockStep_setHostSide (h : HostSide) {s t : State} (hs : blockStep s = .next t) :
    blockStep (s.setHostSide h) = .next (t.setHostSide h) := by
  unfold blockStep at hs ⊢
  rw [setHostSide_phase]
  cases hp : s.phase <;> rw [hp] at hs <;> simp only at hs ⊢
  case idle => cases hs; rfl
  case kx =>
    obtain hw | hw := lt_or_ge s.widx.val (nwOf s.klen)
    · rw [kxStep_of_lt hw] at hs
      cases hs
      exact kxStep_of_lt (s := s.setHostSide h) hw
    · rw [kxStep_of_le hw] at hs
      cases hs
  case enc =>
    obtain hr | hr | hr := lt_trichotomy s.rnd.val (nrOf s.klen).val
    · rw [encStep_of_lt hr] at hs
      cases hs
      exact encStep_of_lt (s := s.setHostSide h) hr
    · rw [encStep_of_eq hr] at hs
      cases hs
      exact encStep_of_eq (s := s.setHostSide h) hr
    · rw [encStep_of_gt hr] at hs
      cases hs
  case dec =>
    obtain hr | hr := le_or_gt s.rnd.val (nrOf s.klen).val
    · by_cases h0 : s.rnd.val = 0
      · rw [decStep_of_zero h0] at hs
        cases hs
        exact decStep_of_zero (s := s.setHostSide h) h0
      · rw [decStep_of_pos h0 hr] at hs
        cases hs
        exact decStep_of_pos (s := s.setHostSide h) h0 hr
    · rw [decStep_of_gt hr] at hs
      cases hs

/-- The block runs alike whatever the host's side is. -/
theorem blockRun_setHostSide (h : HostSide) {n : Nat} {s u : State} (hs : blockRun n s = .next u) :
    blockRun n (s.setHostSide h) = .next (u.setHostSide h) := by
  induction n generalizing s with
  | zero => cases hs; rfl
  | succ n ih =>
    obtain ⟨t, hstep, hrun⟩ := blockRun_succ hs
    rw [blockRun, blockStep_setHostSide h hstep]
    exact ih hrun

/-! ### The interleaving -/

/-- The host's side after the turns `mid`, taken from `s` on while busy: the error record is the one of `s` if it has one,
or else that of the first write (60_exceptions.md R288, R289). The model's own fields are given. -/
def hostSideAfter (s : State) (mid rest : List Turn) (replies : List (Addr × Byte)) (draws : Nat) : HostSide where
  err := s.err || (firstWrite mid).isSome
  errcode := if s.err || !(firstWrite mid).isSome then s.errcode else 0x07
  errinfo := if s.err then s.errinfo else (firstWrite mid).getD s.errinfo
  pending := rest
  replies := replies
  draws := draws

/-- Without a turn the record is the one of `s`. -/
theorem hostSideAfter_nil (s : State) (rest : List Turn) (replies : List (Addr × Byte)) (draws : Nat) :
    hostSideAfter s [] rest replies draws = ⟨s.err, s.errcode, s.errinfo, rest, replies, draws⟩ := by
  simp [hostSideAfter, firstWrite]

/-- A write while busy is the first one: what it records, or the record it finds, is what later turns keep. -/
theorem hostSideAfter_write (s : State) (a : Addr) (v : Byte) (mid rest : List Turn) (replies : List (Addr × Byte))
    (draws : Nat) :
    hostSideAfter (raiseErr .busy v s) mid rest replies draws =
      hostSideAfter s (.write a v :: mid) rest replies draws := by
  cases he : s.err with
  | true => simp [hostSideAfter, raiseErr_of_set _ _ _ he, he]
  | false => simp [hostSideAfter, raiseErr_of_clear _ _ _ he, he, firstWrite, causeCode]

/-- One turn other than reset, of a run that leaves the operation in flight: the step goes where the block alone goes
(`t`: one step on for the block's turn, nowhere for a host's), up to the host's side `h`. -/
theorem step_turn_during_operation {s u : State} {turn : Turn} {mid rest : List Turn}
    (hp : s.pending = turn :: (mid ++ rest)) (hr : turn ≠ .reset)
    (hrun : blockRun ((turn :: mid).count .engine) s = .next u) (hu : u.busy = true) :
    ∃ t h, step s = .next (t.setHostSide h) ∧ h.pending = mid ++ rest ∧
      blockRun (mid.count .engine) t = .next u ∧
      ∀ replies draws, hostSideAfter (t.setHostSide h) mid rest replies draws =
        hostSideAfter s (turn :: mid) rest replies draws := by
  have hb : s.busy = true := busy_of_blockRun hrun hu
  cases turn with
  | reset => exact absurd rfl hr
  | read a =>
    rw [List.count_cons_of_ne (by simp)] at hrun
    exact ⟨s, (hostRead a { s with pending := mid ++ rest }).hostSide, step_of_pending_read hp, rfl, hrun,
      fun _ _ => rfl⟩
  | engine =>
    rw [List.count_cons_self] at hrun
    obtain ⟨t, hstep, hrest⟩ := blockRun_succ hrun
    exact ⟨t, { s.hostSide with pending := mid ++ rest },
      (step_of_pending_engine s _ hp).trans (blockStep_setHostSide { s.hostSide with pending := mid ++ rest } hstep),
      rfl, hrest, fun _ _ => rfl⟩
  | write a v =>
    rw [List.count_cons_of_ne (by simp)] at hrun
    refine ⟨s, (raiseErr .busy v { s with pending := mid ++ rest }).hostSide, ?_, raiseErr_pending _ _ _, hrun, ?_⟩
    · rw [step_of_pending s _ _ hp, ← raiseErr_eq_setHostSide]
      exact hostWrite_of_busy a v hb
    · rw [← raiseErr_eq_setHostSide]
      exact hostSideAfter_write { s with pending := mid ++ rest } a v mid rest

/-- Turns other than reset, of a run that leaves the operation in flight: by induction, with the state of the block alone
and the host's side carried along. -/
theorem run_turns_during_operation {mid rest : List Turn} {s u : State} (hp : s.pending = mid ++ rest)
    (hr : Turn.reset ∉ mid) (hrun : blockRun (mid.count .engine) s = .next u) (hu : u.busy = true) :
    ∃ replies draws, Sys2Proof.core.run mid.length s =
      .next (u.setHostSide (hostSideAfter s mid rest replies draws)) := by
  induction mid generalizing s u with
  | nil =>
    cases hrun
    refine ⟨s.replies, s.draws, congrArg Host.Outcome.next ?_⟩
    rw [hostSideAfter_nil, ← List.nil_append rest, ← hp]
    rfl
  | cons turn mid ih =>
    obtain ⟨hturn, hmid⟩ := not_or.mp (List.mem_cons.not.mp hr)
    obtain ⟨t, h, hstep, hpending, hblock, hside⟩ := step_turn_during_operation hp (Ne.symm hturn) hrun hu
    obtain ⟨replies, draws, hmachine⟩ := ih (s := t.setHostSide h) hpending hmid (blockRun_setHostSide h hblock) hu
    refine ⟨replies, draws, ?_⟩
    calc Sys2Proof.core.run (mid.length + 1) s
      _ = Sys2Proof.core.run mid.length (t.setHostSide h) := coreRun_succ_of_step hstep _
      _ = .next ((u.setHostSide h).setHostSide (hostSideAfter (t.setHostSide h) mid rest replies draws)) := hmachine
      _ = .next (u.setHostSide (hostSideAfter s (turn :: mid) rest replies draws)) := by rw [hside]; rfl

/-- Settles O54: the run of the machine is that of the block alone, up to the host's side. -/
theorem hostTurnsDoNotDisturbOperation : Obligations.HostTurnsDoNotDisturbOperation := by
  intro s u mid rest hp hr hrun hu
  exact run_turns_during_operation hp hr hrun hu

end Sys2Proof.Machine
end

section
/-! PROOFS of the encoding statements (30_encoding.md): the two fields of a command byte, what each argument decoder
rejects, the round trip between commands and bytes, and the host's writes. -/

namespace Sys2Proof.Machine

/-! ### The two fields of a command byte -/

@[simp] theorem cmdOp_append (op arg : BitVec 4) : cmdOp (op ++ arg) = op := BitVec.extractLsb'_append_eq_left

@[simp] theorem cmdArg_append (op arg : BitVec 4) : cmdArg (op ++ arg) = arg := BitVec.extractLsb'_append_eq_right

/-- 30_encoding.md R90: `op` is the high half of the byte, `arg` the low half. -/
theorem toNat_eq_cmdOp_cmdArg (v : Byte) : v.toNat = 16 * (cmdOp v).toNat + (cmdArg v).toNat := by
  have hop : (cmdOp v).toNat = v.toNat / 16 % 16 := by
    rw [cmdOp, BitVec.extractLsb'_toNat, Nat.shiftRight_eq_div_pow]
  have harg : (cmdArg v).toNat = v.toNat % 16 := by
    rw [cmdArg, BitVec.extractLsb'_toNat, Nat.shiftRight_zero]
  omega

/-! ### What each argument decoder rejects -/

theorem decodePlain_of_ne_zero (i : Instr) {arg : BitVec 4} (ha : arg ≠ 0) : decodePlain i arg = .error .opcode :=
  if_pos (by simpa using ha)

/-- 30_encoding.md R92: all four bits of the argument must be zero. -/
theorem decodePlain_eq_error_iff {i : Instr} {arg : BitVec 4} {c : ErrCause} :
    decodePlain i arg = .error c ↔ c = .opcode ∧ arg.toNat ≠ 0 := by
  by_cases ha : arg = 0
  · simp [decodePlain, ha]
  · have h0 : arg.toNat ≠ 0 := BitVec.toNat_ne_iff_ne.mpr ha
    simp [decodePlain_of_ne_zero i ha, h0, eq_comm (a := ErrCause.opcode)]

/-- 30_encoding.md R92, R93: the must-be-zero bits are tested before `klen`. -/
theorem decodeKeyexp_eq_error_iff {arg : BitVec 4} {c : ErrCause} :
    decodeKeyexp arg = .error c ↔ (c = .keylen ∧ arg.toNat = 3) ∨ (c = .opcode ∧ 4 ≤ arg.toNat) := by
  cases c <;> revert arg <;> decide

/-- 30_encoding.md R92, R94: the must-be-zero bit is tested before `mode`. -/
theorem decodeBlock_eq_error_iff {arg : BitVec 4} {c : ErrCause} :
    decodeBlock arg = .error c ↔
      (c = .mode ∧ (arg.toNat = 3 ∨ arg.toNat = 7)) ∨ (c = .opcode ∧ 8 ≤ arg.toNat) := by
  cases c <;> revert arg <;> decide

theorem decodeBlockp_of_ne_zero {n : BitVec 4} (hn : n ≠ 0) : decodeBlockp n = .ok (.ctrPart n) :=
  if_neg (by simpa using hn)

/-- 30_encoding.md R95: only the empty block is rejected. -/
theorem decodeBlockp_eq_error_iff {n : BitVec 4} {c : ErrCause} :
    decodeBlockp n = .error c ↔ c = .empty ∧ n.toNat = 0 := by
  by_cases hn : n = 0
  · simp [decodeBlockp, hn, eq_comm (a := ErrCause.empty)]
  · have h0 : n.toNat ≠ 0 := BitVec.toNat_ne_iff_ne.mpr hn
    simp [decodeBlockp_of_ne_zero hn, h0]

/-! ### The round trip -/

/-- 30_encoding.md R91: the byte of `CTR.PART n` carries all four bits of `n`. -/
theorem decode_encode_ctrPart {n : BitVec 4} (hn : n ≠ 0) : decode (encode (.ctrPart n)) = .ok (.ctrPart n) :=
  calc decode ((5 : BitVec 4) ++ n)
    _ = decodeBlockp n := by simp [decode]
    _ = .ok (.ctrPart n) := decodeBlockp_of_ne_zero hn

/-- Settles O2: the commands without an operand are single bytes; `CTR.BLK` has two, and `CTR.PART` one for each `n`. -/
theorem decodeEncodeAgree : Obligations.DecodeEncodeAgree := by
  intro i hw
  cases i with
  | ctrPart n => exact decode_encode_ctrPart (by simpa [Instr.wf] using hw)
  | ctrBlk dir => cases dir <;> rfl
  | _ => rfl

/-- Settles O1: each of the seven bytes is the encoding of its command. -/
theorem specBytesDecode : Obligations.SpecBytesDecode :=
  ⟨decodeEncodeAgree .nop rfl, decodeEncodeAgree .keyexp192 rfl, decodeEncodeAgree .loadiv rfl,
    decodeEncodeAgree .cbcDec rfl, decodeEncodeAgree (.ctrBlk true) rfl, decodeEncodeAgree (.ctrPart 10) rfl,
    decodeEncodeAgree .clrerr rfl⟩

/-- Only `CTR.PART 0` is not well formed, and its byte `0x50` is rejected (30_encoding.md R95). -/
theorem wf_of_decode {v : Byte} {i : Instr} (h : decode v = .ok i) : i.wf = true := by
  cases i with
  | ctrPart n =>
    have hn : n ≠ 0 := by
      rintro rfl
      rw [← encode_of_decode h] at h
      exact absurd h (by decide)
    simpa [Instr.wf] using hn
  | _ => rfl

/-- Settles O3: `CTR.PART 0` is never decoded, and a command's byte is the one it was decoded from. -/
theorem decodedByteIsItsEncoding : Obligations.DecodedByteIsItsEncoding :=
  fun _ _ h => ⟨wf_of_decode h, encode_of_decode h⟩

/-! ### Rejected bytes -/

/-- Settles O4: opcode by opcode, from what the argument decoder of each rejects. -/
theorem rejectedBytesByCause : Obligations.RejectedBytesByCause := by
  intro v
  have hv := toNat_eq_cmdOp_cmdArg v
  have harg := (cmdArg v).isLt
  simp only [← BitVec.toNat_inj]
  unfold decode
  split
  -- `KEYEXP`
  case h_2 => simp [decodeKeyexp_eq_error_iff]; omega
  -- `BLOCK`
  case h_5 => simp [decodeBlock_eq_error_iff]; omega
  -- `BLOCKP`
  case h_6 => simp [decodeBlockp_eq_error_iff]; omega
  -- the reserved opcodes
  case h_8 => simp only [imp_false] at *; simp; omega
  -- `NOP`, `LOADIV`, `LOADNONCE`, `CLRERR`
  all_goals simp [decodePlain_eq_error_iff]; omega

/-! ### Host writes -/

/-- Settles O7: the step is the write, which is answered whatever `BUSY`, the address and the byte are. -/
theorem everyHostWriteAnswers : Obligations.EveryHostWriteAnswers := by
  intro s a v rest hp
  rw [step_of_pending s _ rest hp]
  exact hostWrite_answers a v _

end Sys2Proof.Machine
end

section
/-! PROOFS of the arithmetic statements (40_gf_arith.md): the field laws of `gf_mult`, and its products by the constants of
the round functions. `gf_mult` is additive in each factor, so a law is checked at the single bits, where `gf_mult` is an
iterated `xtimes`. -/

namespace Sys2Proof.Machine

/-! ### Iterated doubling -/

theorem xtimesIter_add (a : Byte) (i j : Nat) : xtimesIter a (i + j) = xtimesIter (xtimesIter a i) j := by
  induction j with
  | zero => rfl
  | succ j ih => exact congrArg xtimes ih

theorem xtimesIter_comm (a : Byte) (i j : Nat) :
    xtimesIter (xtimesIter a i) j = xtimesIter (xtimesIter a j) i := by
  rw [← xtimesIter_add, Nat.add_comm, xtimesIter_add]

/-- 40_gf_arith.md R126: bit `i` is `x^i`, which needs no reduction below the eighth power. -/
theorem shiftLeft_one_eq_xtimesIter (i : Nat) (hi : i < 8) : 1#8 <<< i = xtimesIter 1 i := by
  revert i
  decide

/-! ### Additivity in the second factor -/

theorem gfMult_xor_right (a b c : Byte) : gfMult a (b ^^^ c) = gfMult a b ^^^ gfMult a c := by
  simp only [gfMult_eq_terms, BitVec.getLsbD_xor, bitTerm_xor_bit]
  ac_rfl

/-- 40_gf_arith.md R122: one set bit of the second factor is one term of the product. -/
theorem gfMult_bit (a : Byte) (i : Nat) (hi : i < 8) : gfMult a (1#8 <<< i) = xtimesIter a i := by
  rw [gfMult_eq_terms]
  interval_cases i <;> simp [bitTerm]

@[simp] theorem gfMult_one (a : Byte) : gfMult a 1 = a := gfMult_bit a 0 (by decide)

@[simp] theorem gfMult_zero (a : Byte) : gfMult a 0 = 0 := by
  simpa using gfMult_xor_right a 0 0

/-! ### The ring laws -/

/-- 40_gf_arith.md R123, item 2: at two single bits both sides are `x^i · x^j`. -/
theorem gfMult_comm (a b : Byte) : gfMult a b = gfMult b a := by
  refine additive_ext (gfMult a) (gfMult · a) (gfMult_xor_right a) (gfMult_xor_left · · a) (fun i hi => ?_) b
  refine additive_ext (gfMult · (1#8 <<< i)) (gfMult (1#8 <<< i)) (gfMult_xor_left · · _) (gfMult_xor_right _)
    (fun j hj => ?_) a
  change gfMult (1#8 <<< j) (1#8 <<< i) = gfMult (1#8 <<< i) (1#8 <<< j)
  rw [gfMult_bit _ i hi, gfMult_bit _ j hj, shiftLeft_one_eq_xtimesIter i hi, shiftLeft_one_eq_xtimesIter j hj,
    xtimesIter_comm]

/-- Doubling the second factor doubles the product. -/
theorem gfMult_xtimesIter (a b : Byte) (i : Nat) : gfMult a (xtimesIter b i) = xtimesIter (gfMult a b) i := by
  refine additive_ext (gfMult · (xtimesIter b i)) (fun a => xtimesIter (gfMult a b) i) (gfMult_xor_left · · _)
    (fun x y => by rw [gfMult_xor_left, xtimesIter_xor]) (fun j hj => ?_) a
  simp only [gfMult_comm (1#8 <<< j), gfMult_bit _ _ hj]
  exact xtimesIter_comm b i j

/-- 40_gf_arith.md R123, item 3: at a single bit of `c` both sides are the doubled product of `a` and `b`. -/
theorem gfMult_assoc (a b c : Byte) : gfMult (gfMult a b) c = gfMult a (gfMult b c) := by
  refine additive_ext (gfMult (gfMult a b)) (fun c => gfMult a (gfMult b c)) (gfMult_xor_right _)
    (fun x y => by rw [gfMult_xor_right, gfMult_xor_right]) (fun i hi => ?_) c
  rw [gfMult_bit _ i hi, gfMult_bit b i hi, gfMult_xtimesIter]

/-! ### Inverses -/

/-- The inverse of a byte, read off its S-box entry by undoing the affine map of 41_sbox_tables.md R145. -/
def gfInv (a : Byte) : Byte :=
  (sbox a).rotateLeft 1 ^^^ (sbox a).rotateLeft 3 ^^^ (sbox a).rotateLeft 6 ^^^ 0x05

/-- 40_gf_arith.md R123, item 6: an inverse exists. It does because the modulus is irreducible, a finite fact that is checked
here byte by byte. -/
theorem gfMult_gfInv : ∀ a : Byte, a ≠ 0 → gfMult a (gfInv a) = 1 := by
  decide +kernel

theorem gfInv_gfMult_cancel {a : Byte} (ha : a ≠ 0) (b : Byte) : gfMult (gfInv a) (gfMult a b) = b := by
  rw [← gfMult_assoc, gfMult_comm (gfInv a), gfMult_gfInv a ha, gfMult_comm, gfMult_one]

/-- 40_gf_arith.md R123, item 7. -/
theorem eq_zero_of_gfMult_eq_zero {a b : Byte} (h : gfMult a b = 0) (ha : a ≠ 0) : b = 0 := by
  rw [← gfInv_gfMult_cancel ha b, h, gfMult_zero]

theorem eq_gfInv_of_gfMult_eq_one {a b : Byte} (h : gfMult a b = 1) (ha : a ≠ 0) : b = gfInv a := by
  rw [← gfInv_gfMult_cancel ha b, h, gfMult_one]

/-- Settles O17: the ring laws from additivity, and the last two by multiplying with the inverse. -/
theorem gfMultIsFieldMultiplication : Obligations.GfMultIsFieldMultiplication :=
  ⟨gfMult_comm, gfMult_assoc, gfMult_xor_right,
    fun _ _ h => or_iff_not_imp_left.mpr (eq_zero_of_gfMult_eq_zero h),
    fun a ha => ⟨gfInv a, gfMult_gfInv a ha, fun _ h => eq_gfInv_of_gfMult_eq_one h ha⟩⟩

/-! ### The constants of the round functions -/

/-- A further set bit `i` of the second factor adds `a · x^i`. -/
theorem gfMult_xor_bit (a c : Byte) (i : Nat) (hi : i < 8) :
    gfMult a (c ^^^ 1#8 <<< i) = gfMult a c ^^^ xtimesIter a i := by
  rw [gfMult_xor_right, gfMult_bit a i hi]

/-- Settles O18: each constant is a sum of single bits, and each bit is one iterated doubling. -/
theorem constantMultipliers : Obligations.ConstantMultipliers := by
  intro a
  have h1 : gfMult a 0x01 = a := gfMult_one a
  have h2 : gfMult a 0x02 = xtimes a := gfMult_bit a 1 (by decide)
  have h8 : gfMult a 0x08 = xtimes (xtimes (xtimes a)) := gfMult_bit a 3 (by decide)
  have h3 : gfMult a 0x03 = gfMult a 0x02 ^^^ a := gfMult_xor_bit a 0x02 0 (by decide)
  have h9 : gfMult a 0x09 = gfMult a 0x08 ^^^ a := gfMult_xor_bit a 0x08 0 (by decide)
  have ha : gfMult a 0x0a = gfMult a 0x08 ^^^ xtimes a := gfMult_xor_bit a 0x08 1 (by decide)
  have hb : gfMult a 0x0b = gfMult a 0x0a ^^^ a := gfMult_xor_bit a 0x0a 0 (by decide)
  have hc : gfMult a 0x0c = gfMult a 0x08 ^^^ xtimes (xtimes a) := gfMult_xor_bit a 0x08 2 (by decide)
  have hd : gfMult a 0x0d = gfMult a 0x0c ^^^ a := gfMult_xor_bit a 0x0c 0 (by decide)
  have he : gfMult a 0x0e = gfMult a 0x0c ^^^ xtimes a := gfMult_xor_bit a 0x0c 1 (by decide)
  rw [hb, hd, he, ha, hc, h3, h9, h8, h2]
  exact ⟨h1, rfl, rfl, rfl, rfl, rfl, rfl⟩

end Sys2Proof.Machine
end

section
/-! PROOFS of the S-box statement (41_sbox_tables.md): the table is the affine map of the field inverse. `gfInv` undoes the
affine map, and the linear parts of the two are inverse to each other, which additivity reduces to the single bits. -/

namespace Sys2Proof.Machine

/-! ### The linear part of the affine map and its inverse -/

/-- The linear part of the map of 41_sbox_tables.md R145: a byte XOR its rotations to the left by 1 to 4. -/
def affineLinear (b : Byte) : Byte :=
  b ^^^ b.rotateLeft 1 ^^^ b.rotateLeft 2 ^^^ b.rotateLeft 3 ^^^ b.rotateLeft 4

/-- The linear part of `gfInv`. -/
def affineLinearInv (s : Byte) : Byte := s.rotateLeft 1 ^^^ s.rotateLeft 3 ^^^ s.rotateLeft 6

theorem rotateLeft_xor (x y : Byte) (n : Nat) : (x ^^^ y).rotateLeft n = x.rotateLeft n ^^^ y.rotateLeft n := by
  apply BitVec.eq_of_getLsbD_eq
  intro i hi
  simp only [BitVec.getLsbD_rotateLeft, BitVec.getLsbD_xor]
  cases decide (i < n % 8) <;> simp [hi]

theorem affineLinear_xor (x y : Byte) : affineLinear (x ^^^ y) = affineLinear x ^^^ affineLinear y := by
  simp only [affineLinear, rotateLeft_xor]
  ac_rfl

theorem affineLinearInv_xor (x y : Byte) : affineLinearInv (x ^^^ y) = affineLinearInv x ^^^ affineLinearInv y := by
  simp only [affineLinearInv, rotateLeft_xor]
  ac_rfl

theorem affineLinear_affineLinearInv (s : Byte) : affineLinear (affineLinearInv s) = s :=
  additive_ext (fun s => affineLinear (affineLinearInv s)) id
    (fun x y => by rw [affineLinearInv_xor, affineLinear_xor]) (fun _ _ => rfl) (by decide) s

/-! ### The table -/

/-- The constants of the two affine maps correspond: the linear part takes `0x05` to `0x63`. -/
theorem affineLinear_gfInv (a : Byte) : affineLinear (gfInv a) = sbox a ^^^ 0x63 := by
  change affineLinear (affineLinearInv (sbox a) ^^^ 0x05) = _
  rw [affineLinear_xor, affineLinear_affineLinearInv]
  rfl

theorem ne_zero_of_gfMult_eq_one {a b : Byte} (h : gfMult a b = 1) : a ≠ 0 := by
  rintro rfl
  rw [gfMult_comm, gfMult_zero] at h
  exact absurd h (by decide)

/-- Settles O19: a byte with product 1 is `gfInv a`, whose image under the linear part is the table's entry up to `0x63`. -/
theorem sboxIsAffineOfInverse : Obligations.SboxIsAffineOfInverse := by
  refine ⟨by decide, fun a b h => ?_⟩
  have hb : b = gfInv a := eq_gfInv_of_gfMult_eq_one h (ne_zero_of_gfMult_eq_one h)
  change sbox a = affineLinear b ^^^ 0x63
  rw [hb, affineLinear_gfInv, BitVec.xor_assoc, BitVec.xor_self, BitVec.xor_zero]

end Sys2Proof.Machine
end

section
/-! PROOFS of the key expansion statements (42_key_expansion.md R160, R161, R169): the words of a schedule, and the key
bytes they are made from. -/

namespace Sys2Proof.Machine

/-! ### The rules for one word -/

theorem kxWord_of_lt (w : Schedule) (key : Vector Byte 32) {i nk : Nat} (h : i < nk) :
    kxWord w key i nk = keyWord key i :=
  if_pos h

theorem kxWord_of_le (w : Schedule) (key : Vector Byte 32) {i nk : Nat} (h : nk ≤ i) :
    kxWord w key i nk = xorBytes (wordAt w (i - nk)) (kxTemp (wordAt w (i - 1)) i nk) :=
  if_neg (Nat.not_lt.mpr h)

/-- The first word of a round of the expansion: rotated, substituted, and with a round constant. -/
theorem kxTemp_of_dvd (prev : Word) {i nk : Nat} (h : i % nk = 0) :
    kxTemp prev i nk = xorBytes (subWord (rotWord prev)) (rcon (i / nk - 1)) :=
  if_pos h

/-- The extra substitution, for the long key only. -/
theorem kxTemp_of_middle (prev : Word) {i nk : Nat} (hnk : 6 < nk) (h : i % nk = 4) : kxTemp prev i nk = subWord prev :=
  (if_neg (by omega)).trans (if_pos ⟨hnk, h⟩)

theorem kxTemp_of_other (prev : Word) {i nk : Nat} (h0 : i % nk ≠ 0) (h4 : ¬ (6 < nk ∧ i % nk = 4)) :
    kxTemp prev i nk = prev :=
  (if_neg h0).trans (if_neg h4)

/-- Only the 256-bit variant has more than six key words (00_scope.md R10). -/
theorem six_lt_nkOf_iff (kl : KeyLen) : 6 < nkOf kl ↔ kl = .k256 := by cases kl <;> decide

/-! ### The words of a schedule -/

/-- A schedule meets its own rule: word `i` is `kx_word` of the schedule it stands in. -/
theorem wordAt_expandWords (key : Vector Byte 32) {nk n i : Nat} (hnk : 0 < nk) (hi : i < n) :
    wordAt (expandWords key nk n) i = kxWord (expandWords key nk n) key i nk := by
  have hmade : (expandWords key nk n).take (i + 1) = (expandWords key nk (i + 1)).take (i + 1) := by
    rw [take_expandWords _ _ _ _ hi, take_expandWords _ _ _ _ le_rfl]
  calc wordAt (expandWords key nk n) i
    _ = wordAt (expandWords key nk (i + 1)) i := wordAt_eq_of_take _ _ _ _ hmade i.lt_succ_self
    _ = kxWord (expandWords key nk i) key i nk := by simp [wordAt, expandWords, length_expandWords]
    _ = kxWord (expandWords key nk n) key i nk :=
      kxWord_eq_of_take _ _ key i nk hnk (by rw [take_expandWords _ _ _ _ hi.le, take_expandWords _ _ _ _ le_rfl])

theorem wordAt_scheduleOf (kl : KeyLen) (key : Vector Byte 32) {i : Nat} (hi : i < nwOf kl) :
    wordAt (scheduleOf kl key) i = kxWord (scheduleOf kl key) key i (nkOf kl) :=
  wordAt_expandWords key (nkOf_pos kl) hi

/-- A word after the key's own, by the term added to the word `Nk` before it. -/
theorem wordAt_scheduleOf_of_le (kl : KeyLen) (key : Vector Byte 32) {i : Nat} (hi : i < nwOf kl) (hk : nkOf kl ≤ i) :
    wordAt (scheduleOf kl key) i = xorBytes (wordAt (scheduleOf kl key) (i - nkOf kl))
      (kxTemp (wordAt (scheduleOf kl key) (i - 1)) i (nkOf kl)) :=
  (wordAt_scheduleOf kl key hi).trans (kxWord_of_le _ _ hk)

/-- Settles O13: a schedule meets its own rule (`wordAt_expandWords`), one clause for each case of the rule. -/
theorem scheduleWordsFollowRecurrence : Obligations.ScheduleWordsFollowRecurrence := by
  intro kl key
  refine ⟨length_expandWords _ _ _, fun i hi => ⟨fun j hk => ?key, fun hk h0 => ?first, ?middle, fun hk h0 h4 => ?other⟩⟩
  case key =>
    rw [wordAt_scheduleOf kl key hi, kxWord_of_lt _ _ hk]
    simp [keyWord]
  case first => rw [wordAt_scheduleOf_of_le kl key hi hk, kxTemp_of_dvd _ h0]
  case middle =>
    rintro hk rfl h4
    rw [wordAt_scheduleOf_of_le .k256 key hi hk, kxTemp_of_middle (nk := nkOf .k256) _ (by decide) h4]
    rfl
  case other =>
    have hother : ¬ (6 < nkOf kl ∧ i % nkOf kl = 4) := by
      rintro ⟨hlong, hmod⟩
      obtain rfl := (six_lt_nkOf_iff kl).mp hlong
      exact h4 ⟨rfl, hmod⟩
    rw [wordAt_scheduleOf_of_le kl key hi hk, kxTemp_of_other _ h0 hother]

/-! ### The key bytes of a schedule -/

/-- Word `i` of the key is made from its bytes `4i` to `4i+3` (20_memory.md R71.2). -/
theorem keyWord_congr {k₁ k₂ : Vector Byte 32} {i n : Nat} (hn : n ≤ 8) (hi : i < n)
    (h : ∀ j : Fin 32, j.val < 4 * n → k₁[j.val] = k₂[j.val]) : keyWord k₁ i = keyWord k₂ i := by
  refine congrArg Vector.ofFn (funext fun j => ?_)
  have hj : 4 * i + j.val < 32 := by omega
  simpa [List.getD_eq_getElem?_getD, hj] using h ⟨4 * i + j.val, hj⟩ (show 4 * i + j.val < 4 * n by omega)

/-- The key enters a schedule through its first `nk` words only. -/
theorem expandWords_congr {k₁ k₂ : Vector Byte 32} {nk : Nat} (h : ∀ i, i < nk → keyWord k₁ i = keyWord k₂ i) (n : Nat) :
    expandWords k₁ nk n = expandWords k₂ nk n := by
  induction n with
  | zero => rfl
  | succ n ih =>
    have hword : ∀ w, kxWord w k₁ n nk = kxWord w k₂ n nk := by
      intro w
      obtain hn | hn := lt_or_ge n nk
      · rw [kxWord_of_lt w k₁ hn, kxWord_of_lt w k₂ hn, h n hn]
      · rw [kxWord_of_le w k₁ hn, kxWord_of_le w k₂ hn]
    simp only [expandWords, ih, hword]

/-- Settles O14: the schedule reads `Nk` words of the key, and these are its first `4·Nk` bytes. -/
theorem scheduleReadsOnlyItsKeyBytes : Obligations.ScheduleReadsOnlyItsKeyBytes := by
  intro kl k₁ k₂ h
  exact expandWords_congr (fun i hi => keyWord_congr (nkOf_le kl) hi h) (nwOf kl)

end Sys2Proof.Machine
end

section
/-! PROOFS of the key expansion statements (42_key_expansion.md R165, R166, R168): `KEYEXP` from its acceptance to its last
word, for the block alone and under an interleaving with the host. -/

namespace Sys2Proof.Machine

/-! ### Runs, extended at their end -/

theorem blockRun_succ_of_blockRun {n : Nat} {s t : State} (h : blockRun n s = .next t) :
    blockRun (n + 1) s = blockStep t := by
  induction n generalizing s with
  | zero =>
    cases h
    cases hs : blockStep t <;> simp only [blockRun, hs]
  | succ n ih =>
    obtain ⟨u, hstep, hrest⟩ := blockRun_succ h
    rw [blockRun, hstep]
    exact ih hrest

theorem coreRun_succ_of_run {M : Host.Core} {n : Nat} {s t : M.State} (h : M.run n s = .next t) :
    M.run (n + 1) s = M.step t := by
  induction n generalizing s with
  | zero =>
    cases h
    cases hs : M.step t <;> simp only [Host.Core.run, hs]
  | succ n ih =>
    cases hs : M.step s with
    | next u =>
      rw [coreRun_succ_of_step hs] at h ⊢
      exact ih h
    | fault r | refused r => simp only [Host.Core.run, hs] at h; cases h

/-! ### Acceptance -/

theorem decode_encode_keyexpOf (kl : KeyLen) : decode (encode (keyexpOf kl)) = .ok (keyexpOf kl) := by
  cases kl <;> rfl

/-- The three variants differ in the key length only (42_key_expansion.md R162 to R165). -/
theorem exec_keyexpOf (kl : KeyLen) (s : State) :
    exec (keyexpOf kl) s = .next (guarded (encode (keyexpOf kl)) (keyexpAccept kl) s) := by
  cases kl <;> rfl

theorem exec_keyexpOf_of_ready (kl : KeyLen) {s : State} (h : s.ready) :
    exec (keyexpOf kl) s = .next (keyexpAccept kl s) := by
  rw [exec_keyexpOf, guarded_of_ready _ _ _ h.1 h.2]

/-- Settles O12: the bytes are the encodings of the three commands, and nothing but `BUSY` and `ERR` is tested. -/
theorem keyexpAcceptance : Obligations.KeyexpAcceptance :=
  ⟨decode_encode_keyexpOf .k128, decode_encode_keyexpOf .k192, decode_encode_keyexpOf .k256,
    fun kl _ h => exec_keyexpOf_of_ready kl h⟩

/-! ### The words made so far -/

/-- `rk` is `old` with the first `n` words of the schedule of `key` written over it. -/
structure HoldsWords (kl : KeyLen) (key : Vector Byte 32) (old : Vector Word 60) (n : Nat)
    (rk : Vector Word 60) : Prop where
  made : rk.toList.take n = expandWords key (nkOf kl) n
  tail : rk.toList.drop n = old.toList.drop n

theorem HoldsWords.zero (kl : KeyLen) (key : Vector Byte 32) (old : Vector Word 60) : HoldsWords kl key old 0 old :=
  ⟨rfl, rfl⟩

/-- One more word, as the `KX` step writes it (42_key_expansion.md R166). -/
theorem HoldsWords.succ {kl : KeyLen} {key : Vector Byte 32} {old rk : Vector Word 60} {n : Nat}
    (h : HoldsWords kl key old n rk) (hn : n < 60) :
    HoldsWords kl key old (n + 1) (rk.set n (kxWord rk.toList key n (nkOf kl)) hn) where
  made := take_kxWord rk key kl n hn h.made
  tail := by
    rw [drop_set _ _ _ _ _ n.lt_succ_self]
    simpa only [List.drop_drop] using congrArg (List.drop 1) h.tail

/-! ### The block's run -/

/-- `KEYEXP` of the variant `kl`, accepted in `s`, with `n` words made and at least one to come. -/
def keyexpInFlight (kl : KeyLen) (s : State) (n : Nat) (hn : n < nwOf kl) (rk : Vector Word 60) : State :=
  { keyexpAccept kl s with rk := rk, widx := ⟨n, Nat.lt_succ_of_lt (Nat.lt_of_lt_of_le hn (nwOf_le kl))⟩ }

/-- `KEYEXP` of the variant `kl`, accepted in `s` and ended. -/
def keyexpDone (kl : KeyLen) (s : State) (rk : Vector Word 60) : State :=
  { s with klen := kl, kvalid := true, rk := rk, widx := ⟨nwOf kl, Nat.lt_succ_of_le (nwOf_le kl)⟩ }

/-- The block's step before the last one. -/
theorem blockStep_keyexpInFlight (kl : KeyLen) (s : State) {n : Nat} (hn : n < nwOf kl) (hn' : n + 1 < nwOf kl)
    (rk : Vector Word 60) :
    blockStep (keyexpInFlight kl s n hn rk) = .next (keyexpInFlight kl s (n + 1) hn'
      (rk.set n (kxWord rk.toList s.key n (nkOf kl)) (Nat.lt_of_lt_of_le hn (nwOf_le kl)))) := by
  have hstep := kxStep_of_lt (s := keyexpInFlight kl s n hn rk) hn
  exact hstep.trans (by simp [keyexpInFlight, hn'.ne])

/-- The block's last step makes the schedule whole: `KVALID` is set, and the block is idle as it was before the command. -/
theorem blockStep_keyexpInFlight_last (kl : KeyLen) {s : State} (hs : s.phase = .idle) {n : Nat} (hn : n < nwOf kl)
    (last : n + 1 = nwOf kl) {rk : Vector Word 60} (hrk : HoldsWords kl s.key s.rk n rk) :
    ∃ rk', blockStep (keyexpInFlight kl s n hn rk) = .next (keyexpDone kl s rk') ∧
      HoldsWords kl s.key s.rk (nwOf kl) rk' := by
  have hstep := kxStep_of_lt (s := keyexpInFlight kl s n hn rk) hn
  refine ⟨_, hstep.trans ?_, last ▸ hrk.succ (Nat.lt_of_lt_of_le hn (nwOf_le kl))⟩
  simp [keyexpInFlight, keyexpDone, keyexpAccept, last, hs]

/-- After fewer steps than there are words, as many words are made. -/
theorem blockRun_keyexpAccept (kl : KeyLen) (s : State) {n : Nat} (hn : n < nwOf kl) :
    ∃ rk, blockRun n (keyexpAccept kl s) = .next (keyexpInFlight kl s n hn rk) ∧ HoldsWords kl s.key s.rk n rk := by
  induction n with
  | zero => exact ⟨s.rk, rfl, .zero kl s.key s.rk⟩
  | succ n ih =>
    obtain ⟨rk, hrun, hrk⟩ := ih (Nat.lt_of_succ_lt hn)
    exact ⟨_, (blockRun_succ_of_blockRun hrun).trans (blockStep_keyexpInFlight kl s _ hn rk), hrk.succ _⟩

/-- Settles O15: `NW − 1` steps with the operation in flight, then the last one. -/
theorem keyexpFillsSchedule : Obligations.KeyexpFillsSchedule := by
  intro kl s hready
  obtain ⟨n, last⟩ : ∃ n, n + 1 = nwOf kl := ⟨nwOf kl - 1, Nat.sub_add_cancel (nwOf_pos kl)⟩
  have hn : n < nwOf kl := Nat.lt_of_succ_le last.le
  obtain ⟨rk, hrun, hrk⟩ := blockRun_keyexpAccept kl s hn
  obtain ⟨rk', hstep, hdone⟩ := blockStep_keyexpInFlight_last kl ((not_busy_iff s).mp hready.1) hn last hrk
  have hfull : blockRun (nwOf kl) (keyexpAccept kl s) = .next (keyexpDone kl s rk') := by
    rw [← last, blockRun_succ_of_blockRun hrun, hstep]
  exact ⟨keyexpAccept kl s, rk', exec_keyexpOf_of_ready kl hready, rfl, rfl, hfull, hdone.made, hdone.tail⟩

/-! ### The interleaving -/

/-- The host's side after turns that found no error recorded. -/
theorem hostSideAfter_of_clear {s : State} (he : s.err = false) (mid rest : List Turn) (replies : List (Addr × Byte))
    (draws : Nat) :
    hostSideAfter s mid rest replies draws =
      ⟨(firstWrite mid).isSome, if (firstWrite mid).isSome then 0x07 else s.errcode,
        (firstWrite mid).getD s.errinfo, rest, replies, draws⟩ := by
  cases hw : firstWrite mid <;> simp [hostSideAfter, he, hw]

/-- The block's turn, with the host's side of the state replaced. -/
theorem step_engine_setHostSide {s t : State} {h : HostSide} {rest : List Turn} (hp : h.pending = .engine :: rest)
    (hs : blockStep s = .next t) : step (s.setHostSide h) = .next (t.setHostSide { h with pending := rest }) := by
  rw [step_of_pending_engine (s.setHostSide h) rest hp]
  change blockStep (s.setHostSide { h with pending := rest }) = _
  exact blockStep_setHostSide _ hs

/-- Settles O16: the turns `mid` leave the operation in flight, one word short of its end, up to the host's side (as in
O54); the block's last turn then ends it. -/
theorem keyexpCompletesUnderInterleaving : Obligations.KeyexpCompletesUnderInterleaving := by
  intro kl s mid rest hready hp hr last
  have hn : mid.count .engine < nwOf kl := Nat.lt_of_succ_le last.le
  let s₁ : State := { s with pending := mid ++ .engine :: rest }
  have haccept : step s = .next (keyexpAccept kl s₁) :=
    (stepRunsWrittenCommand.1 s _ _ _ hp (decode_encode_keyexpOf kl)).trans (exec_keyexpOf_of_ready kl hready)
  obtain ⟨rk, hrun, hrk⟩ := blockRun_keyexpAccept kl s₁ hn
  obtain ⟨rk', hlast, hdone⟩ := blockStep_keyexpInFlight_last kl ((not_busy_iff s₁).mp hready.1) hn last hrk
  obtain ⟨replies, draws, hmid⟩ := run_turns_during_operation (s := keyexpAccept kl s₁) rfl hr hrun rfl
  have hend := step_engine_setHostSide
    (h := hostSideAfter (keyexpAccept kl s₁) mid (.engine :: rest) replies draws) rfl hlast
  rw [hostSideAfter_of_clear (s := keyexpAccept kl s₁) hready.2] at hmid hend
  exact ⟨rk', replies, draws, (coreRun_succ_of_step haccept _).trans ((coreRun_succ_of_run hmid).trans hend),
    hdone.made, hdone.tail⟩

end Sys2Proof.Machine
end

section
/-! PROOFS of the round engine's statement on single functions (43_round_engine.md R206): `SubBytes` is undone byte by byte,
`ShiftRows` by following the two index maps, and `MixColumns` because the product of its two matrices is the identity. -/

namespace Sys2Proof.Machine

/-! ### `SubBytes` -/

/-- 41_sbox_tables.md R146: the two tables, as printed, are inverse permutations. -/
@[simp] theorem invSbox_sbox : ∀ b : Byte, invSbox (sbox b) = b := by
  decide +kernel

@[simp] theorem sbox_invSbox : ∀ b : Byte, sbox (invSbox b) = b := by
  decide +kernel

@[simp] theorem invSubBytes_subBytes (s : Block) : invSubBytes (subBytes s) = s := by
  ext k hk
  simp

@[simp] theorem subBytes_invSubBytes (s : Block) : subBytes (invSubBytes s) = s := by
  ext k hk
  simp

/-! ### `ShiftRows` -/

theorem getElem_shiftRows (s : Block) (k : Nat) (hk : k < 16) :
    (shiftRows s)[k] = s[k % 4 + 4 * ((k / 4 + k % 4) % 4)] := by
  simp [shiftRows]

theorem getElem_invShiftRows (s : Block) (k : Nat) (hk : k < 16) :
    (invShiftRows s)[k] = s[k % 4 + 4 * ((k / 4 + 4 - k % 4) % 4)] := by
  simp [invShiftRows]

@[simp] theorem invShiftRows_shiftRows (s : Block) : invShiftRows (shiftRows s) = s := by
  ext k hk : 1
  rw [getElem_invShiftRows, getElem_shiftRows]
  exact getElem_congr_idx (by omega)

@[simp] theorem shiftRows_invShiftRows (s : Block) : shiftRows (invShiftRows s) = s := by
  ext k hk : 1
  rw [getElem_shiftRows, getElem_invShiftRows]
  exact getElem_congr_idx (by omega)

/-- `ShiftRows` only moves bytes, and `SubBytes` treats them all alike. -/
theorem subBytes_shiftRows (s : Block) : subBytes (shiftRows s) = shiftRows (subBytes s) := by
  ext k hk
  simp [getElem_shiftRows]

/-! ### `MixColumns` -/

@[simp] theorem zero_gfMult (a : Byte) : gfMult 0#8 a = 0 :=
  (gfMult_comm _ a).trans (gfMult_zero a)

@[simp] theorem one_gfMult (a : Byte) : gfMult 1#8 a = a :=
  (gfMult_comm _ a).trans (gfMult_one a)

/-- The product of two 4 by 4 matrices of bytes. -/
def matMul (p q : Vector (Vector Byte 4) 4) : Vector (Vector Byte 4) 4 :=
  Vector.ofFn fun i => Vector.ofFn fun j =>
    gfAdd
      (gfAdd (gfMult p[i][0] q[0][j]) (gfMult p[i][1] q[1][j]))
      (gfAdd (gfMult p[i][2] q[2][j]) (gfMult p[i][3] q[3][j]))

/-- The identity matrix. -/
def identityMatrix : Vector (Vector Byte 4) 4 :=
  Vector.ofFn fun i => Vector.ofFn fun j => if i = j then 1 else 0

theorem matMul_invMixMatrix_mixMatrix : matMul invMixMatrix mixMatrix = identityMatrix := by
  decide +kernel

theorem matMul_mixMatrix_invMixMatrix : matMul mixMatrix invMixMatrix = identityMatrix := by
  decide +kernel

theorem getElem_matMul (p q : Vector (Vector Byte 4) 4) (i j : Nat) (hi : i < 4) (hj : j < 4) :
    (matMul p q)[i][j] =
      gfAdd
        (gfAdd (gfMult p[i][0] q[0][j]) (gfMult p[i][1] q[1][j]))
        (gfAdd (gfMult p[i][2] q[2][j]) (gfMult p[i][3] q[3][j])) := by
  simp [matMul]

/-- Byte `r` of column `c` of a product, with the index taken apart. -/
theorem getElem_mulColumns_column (m : Vector (Vector Byte 4) 4) (s : Block) (r c : Nat) (hr : r < 4) (hc : c < 4) :
    (mulColumns m s)[4 * c + r] =
      gfAdd
        (gfAdd (gfMult m[r][0] s[4 * c]) (gfMult m[r][1] s[4 * c + 1]))
        (gfAdd (gfMult m[r][2] s[4 * c + 2]) (gfMult m[r][3] s[4 * c + 3])) := by
  have hmod : (4 * c + r) % 4 = r := by omega
  have hdiv : (4 * c + r) / 4 = c := by omega
  simp only [getElem_mulColumns, hmod, hdiv]

/-- Two Blocks are equal when they agree at every row `r` of every column `c`. -/
theorem block_ext_columns {s t : Block}
    (h : ∀ (r c : Nat) (hr : r < 4) (hc : c < 4), s[4 * c + r] = t[4 * c + r]) : s = t := by
  ext k hk : 1
  have hsplit : 4 * (k / 4) + k % 4 = k := Nat.div_add_mod k 4
  simpa only [hsplit] using h (k % 4) (k / 4) (by omega) (by omega)

/-- Two matrices applied one after the other are their product applied once. -/
theorem mulColumns_mulColumns (p q : Vector (Vector Byte 4) 4) (s : Block) :
    mulColumns p (mulColumns q s) = mulColumns (matMul p q) s := by
  refine block_ext_columns fun r c hr hc => ?_
  have inner := fun j hj => getElem_mulColumns_column q s j c hj hc
  have inner0 : (mulColumns q s)[4 * c] = _ := inner 0 (by decide)
  rw [getElem_mulColumns_column p _ r c hr hc, getElem_mulColumns_column _ s r c hr hc, inner0,
    inner 1 (by decide), inner 2 (by decide), inner 3 (by decide)]
  simp only [getElem_matMul, gfAdd, gfMult_xor_left, gfMult_xor_right, gfMult_assoc]
  ac_rfl

theorem mulColumns_identityMatrix (s : Block) : mulColumns identityMatrix s = s := by
  refine block_ext_columns fun r c hr hc => ?_
  rw [getElem_mulColumns_column _ s r c hr hc]
  interval_cases r <;> simp [identityMatrix, gfAdd]

@[simp] theorem invMixColumns_mixColumns (s : Block) : invMixColumns (mixColumns s) = s := by
  rw [invMixColumns, mixColumns, mulColumns_mulColumns, matMul_invMixMatrix_mixMatrix, mulColumns_identityMatrix]

@[simp] theorem mixColumns_invMixColumns (s : Block) : mixColumns (invMixColumns s) = s := by
  rw [invMixColumns, mixColumns, mulColumns_mulColumns, matMul_mixMatrix_invMixMatrix, mulColumns_identityMatrix]

/-! ### `AddRoundKey` -/

@[simp] theorem addRoundKey_addRoundKey (s : Block) (w : Schedule) (r : Nat) :
    addRoundKey (addRoundKey s w r) w r = s :=
  xorBytes_cancel s (roundKey w r)

/-- Settles O20: one lemma for each function and side. -/
theorem roundFunctionsHaveInverses : Obligations.RoundFunctionsHaveInverses :=
  ⟨fun s => ⟨invSubBytes_subBytes s, subBytes_invSubBytes s⟩,
    fun s => ⟨invShiftRows_shiftRows s, shiftRows_invShiftRows s⟩,
    fun s => ⟨invMixColumns_mixColumns s, mixColumns_invMixColumns s⟩,
    addRoundKey_addRoundKey, subBytes_shiftRows⟩

end Sys2Proof.Machine
end

section
/-! PROOFS of the round engine's statements on the ciphers (43_round_engine.md R200, R202, R205): the single rounds in order
are the two ciphers, and the ciphers undo each other. -/

namespace Sys2Proof.Machine

/-! ### The single rounds -/

theorem encRound_zero (s : Block) (w : Schedule) (nr : Nat) : encRound s w 0 nr = addRoundKey s w 0 :=
  if_pos rfl

theorem encRound_middle (s : Block) (w : Schedule) {r nr : Nat} (h : 1 ≤ r ∧ r < nr) :
    encRound s w r nr = encMiddle w r s :=
  (if_neg (by omega)).trans (if_pos h.2)

theorem encRound_last (s : Block) (w : Schedule) {nr : Nat} (h : 1 ≤ nr) : encRound s w nr nr = encFinal w nr s :=
  (if_neg (by omega)).trans (if_neg nr.lt_irrefl)

theorem decRound_first (s : Block) (w : Schedule) (nr : Nat) : decRound s w nr nr = addRoundKey s w nr :=
  if_pos rfl

theorem decRound_middle (s : Block) (w : Schedule) {r nr : Nat} (h : 1 ≤ r ∧ r < nr) :
    decRound s w r nr = decMiddle w r s :=
  (if_neg h.2.ne).trans (if_pos h.1)

theorem decRound_zero (s : Block) (w : Schedule) {nr : Nat} (h : 1 ≤ nr) : decRound s w 0 nr = decFinal w s :=
  (if_neg (by omega)).trans (if_neg (by decide))

/-! ### The order of the rounds -/

/-- The rounds `0` to `Nr` are the first, the middle ones and the last. -/
theorem range_succ_eq_first_middle_last {nr : Nat} (h : 1 ≤ nr) :
    List.range (nr + 1) = 0 :: (List.range' 1 (nr - 1) ++ [nr]) := by
  obtain ⟨n, rfl⟩ : ∃ n, nr = n + 1 := ⟨nr - 1, by omega⟩
  rw [List.range_succ, List.range_eq_range', List.range'_succ]
  rfl

theorem bounds_of_mem_middle {r nr : Nat} (h : r ∈ List.range' 1 (nr - 1)) : 1 ≤ r ∧ r < nr := by
  rw [List.mem_range'_1] at h
  omega

/-- Settles O21: the rounds split into first, middle and last, and each is the matching part of the cipher. -/
theorem roundsComposeToCiphers : Obligations.RoundsComposeToCiphers := by
  intro w nr b h
  rw [range_succ_eq_first_middle_last h]
  constructor
  · have hmiddle : ∀ s : Block, ∀ r ∈ List.range' 1 (nr - 1), encRound s w r nr = encMiddle w r s :=
      fun s r hr => encRound_middle s w (bounds_of_mem_middle hr)
    rw [List.foldl_cons, List.foldl_concat, encRound_zero, List.foldl_ext _ _ _ hmiddle, encRound_last _ w h, cipher]
  · have hmiddle : ∀ s : Block, ∀ r ∈ (List.range' 1 (nr - 1)).reverse, decRound s w r nr = decMiddle w r s :=
      fun s r hr => decRound_middle s w (bounds_of_mem_middle (List.mem_reverse.mp hr))
    rw [List.reverse_cons, List.reverse_concat, List.foldl_concat, List.foldl_cons, decRound_first,
      List.foldl_ext _ _ _ hmiddle, decRound_zero _ w h, invCipher]

/-! ### The round trip -/

/-- If `g r` takes the image under `e` of a step `f r` back to the image of the state before it, then the steps `g` in the
opposite order take the image of a whole run of the steps `f` back to the image of its start. -/
theorem foldl_reverse_cancel {α σ : Type} {f g : α → σ → σ} {e : σ → σ} (h : ∀ r s, g r (e (f r s)) = e s)
    (l : List α) (s : σ) : l.reverse.foldl (fun s r => g r s) (e (l.foldl (fun s r => f r s) s)) = e s := by
  induction l generalizing s with
  | nil => rfl
  | cons r l ih => rw [List.reverse_cons, List.foldl_concat, List.foldl_cons, ih, h]

/-- The rounds of the two ciphers are cut at different places (43_round_engine.md R199): an inverse middle round starts and
ends between `ShiftRows` and the next function of the forward round. -/
theorem decMiddle_shiftRows_subBytes_encMiddle (w : Schedule) (r : Nat) (s : Block) :
    decMiddle w r (shiftRows (subBytes (encMiddle w r s))) = shiftRows (subBytes s) := by
  simp only [decMiddle, encMiddle, invShiftRows_shiftRows, invSubBytes_subBytes, addRoundKey_addRoundKey,
    invMixColumns_mixColumns]

theorem encMiddle_invSubBytes_invShiftRows_decMiddle (w : Schedule) (r : Nat) (s : Block) :
    encMiddle w r (invSubBytes (invShiftRows (decMiddle w r s))) = invSubBytes (invShiftRows s) := by
  simp only [decMiddle, encMiddle, shiftRows_invShiftRows, subBytes_invSubBytes, addRoundKey_addRoundKey,
    mixColumns_invMixColumns]

theorem invCipher_cipher (w : Schedule) (nr : Nat) (b : Block) : invCipher w nr (cipher w nr b) = b := by
  have hmiddle := foldl_reverse_cancel (e := fun s => shiftRows (subBytes s))
    (decMiddle_shiftRows_subBytes_encMiddle w) (List.range' 1 (nr - 1)) (addRoundKey b w 0)
  rw [invCipher, cipher, encFinal, addRoundKey_addRoundKey, hmiddle, decFinal, invShiftRows_shiftRows,
    invSubBytes_subBytes, addRoundKey_addRoundKey]

theorem cipher_invCipher (w : Schedule) (nr : Nat) (b : Block) : cipher w nr (invCipher w nr b) = b := by
  have hmiddle := foldl_reverse_cancel (e := fun s => invSubBytes (invShiftRows s))
    (encMiddle_invSubBytes_invShiftRows_decMiddle w) (List.range' 1 (nr - 1)).reverse (addRoundKey b w nr)
  rw [List.reverse_reverse] at hmiddle
  rw [cipher, invCipher, decFinal, addRoundKey_addRoundKey, hmiddle, encFinal, subBytes_invSubBytes,
    shiftRows_invShiftRows, addRoundKey_addRoundKey]

/-- Settles O22: the outer rounds cancel, and the middle ones by `foldl_reverse_cancel`; with no middle round at all this
still holds, so the bound on `nr` is not used. -/
theorem cipherRoundTrip : Obligations.CipherRoundTrip :=
  fun w nr b _ => ⟨invCipher_cipher w nr b, cipher_invCipher w nr b⟩

end Sys2Proof.Machine
end

section
/-! PROOFS of the mode statements (44_mode_controller.md R231 to R234, R243, R250): the commands that complete in the
write that gives them, the bytes of the counter block, and that no two counter blocks have one keystream block. -/

namespace Sys2Proof.Machine

/-! ### Housekeeping and loads -/

theorem exec_loadiv_of_ready {s : State} (h : s.ready) : exec .loadiv s = .next (loadChain s) :=
  congrArg Host.Outcome.next (guarded_of_ready _ _ s h.1 h.2)

theorem exec_loadnonce_of_ready {s : State} (h : s.ready) : exec .loadnonce s = .next (loadNonce s) :=
  congrArg Host.Outcome.next (guarded_of_ready _ _ s h.1 h.2)

/-- Settles O8: only `BUSY` is tested. -/
theorem nopChangesNothing : Obligations.NopChangesNothing :=
  ⟨decodeEncodeAgree .nop rfl, fun s hb => congrArg Host.Outcome.next (unlessBusy_of_idle _ _ s hb)⟩

/-- Settles O9: only `BUSY` is tested. -/
theorem clrerrClearsRecordOnly : Obligations.ClrerrClearsRecordOnly :=
  ⟨decodeEncodeAgree .clrerr rfl, fun s hb => congrArg Host.Outcome.next (unlessBusy_of_idle _ _ s hb)⟩

/-- Settles O10: past the tests of `BUSY` and `ERR` the command is `loadChain`. -/
theorem loadivCopiesDinToChain : Obligations.LoadivCopiesDinToChain :=
  ⟨decodeEncodeAgree .loadiv rfl, fun _ h => exec_loadiv_of_ready h⟩

theorem getElem_dinNonce (din : Block) (k : Fin 8) : (dinNonce din)[k.val] = din[k.val] := by
  simp [dinNonce]

/-- Settles O11: past the tests of `BUSY` and `ERR` the command is `loadNonce`, and its nonce is `dinNonce`. -/
theorem loadnonceStartsCounter : Obligations.LoadnonceStartsCounter :=
  ⟨decodeEncodeAgree .loadnonce rfl, fun s h => ⟨dinNonce s.din, getElem_dinNonce s.din, exec_loadnonce_of_ready h⟩⟩

/-! ### The counter block -/

/-- Byte `k` of a counter, most significant byte first (00_scope.md 6.1). -/
theorem toNat_getElem_be64 (n : BitVec 64) (k : Nat) (hk : k < 8) :
    (be64 n)[k].toNat = n.toNat / 2 ^ (8 * (7 - k)) % 256 := by
  simp [be64, Nat.shiftRight_eq_div_pow]

theorem getElem_counterBlock_nonce (nonce : Vector Byte 8) (ctr : BitVec 64) (k : Nat) (hk : k < 8) :
    (counterBlock nonce ctr)[k] = nonce[k] := by
  simp [counterBlock, hk]

theorem getElem_counterBlock_ctr (nonce : Vector Byte 8) (ctr : BitVec 64) (k : Nat) (hk : k < 8) :
    (counterBlock nonce ctr)[8 + k] = (be64 ctr)[k] := by
  simp [counterBlock]

/-- Settles O29: one lemma for each half. -/
theorem counterBlockLayout : Obligations.CounterBlockLayout := by
  intro nonce ctr k
  refine ⟨getElem_counterBlock_nonce nonce ctr k.val k.isLt, ?_⟩
  rw [getElem_counterBlock_ctr nonce ctr k.val k.isLt, toNat_getElem_be64]

/-- Bit `i` of a counter is bit `i mod 8` of byte `7 - i / 8`. -/
theorem getLsbD_getElem_be64 (n : BitVec 64) {i : Nat} (hi : i < 64) :
    (be64 n)[7 - i / 8].getLsbD (i % 8) = n.getLsbD i := by
  have hindex : 8 * (7 - (7 - i / 8)) + i % 8 = i := by omega
  have hbit : i % 8 < 8 := Nat.mod_lt i (by decide)
  simp [be64, hindex, hbit]

/-- A counter is fixed by its eight bytes. -/
theorem be64_injective : Function.Injective be64 := by
  intro m n h
  refine BitVec.eq_of_getLsbD_eq fun i hi => ?_
  rw [← getLsbD_getElem_be64 m hi, ← getLsbD_getElem_be64 n hi, h]

/-- The counter block is fixed by the nonce and the counter, and fixes both. -/
theorem counterBlock_inj {n₁ n₂ : Vector Byte 8} {c₁ c₂ : BitVec 64} (h : counterBlock n₁ c₁ = counterBlock n₂ c₂) :
    n₁ = n₂ ∧ c₁ = c₂ := by
  constructor
  · ext k hk : 1
    rw [← getElem_counterBlock_nonce n₁ c₁ k hk, ← getElem_counterBlock_nonce n₂ c₂ k hk, h]
  · refine be64_injective ?_
    ext k hk : 1
    rw [← getElem_counterBlock_ctr n₁ c₁ k hk, ← getElem_counterBlock_ctr n₂ c₂ k hk, h]

theorem cipher_injective (w : Schedule) (nr : Nat) : Function.Injective (cipher w nr) :=
  Function.LeftInverse.injective (invCipher_cipher w nr)

/-- Settles O59: the cipher is injective, and so is the counter block. -/
theorem keystreamNeverRepeats : Obligations.KeystreamNeverRepeats :=
  fun w kl _ _ _ _ h => counterBlock_inj (cipher_injective w (nrOf kl).val h)

end Sys2Proof.Machine
end

section
/-! PROOFS of the mode statements (44_mode_controller.md R235 to R242, R245): a block command from its acceptance to
`BUSY = 0`. The acceptance and the finish are shared by the six commands, and the engine between them runs the rounds of
one of the two ciphers; so the run is proved once, for every mode and direction. -/

namespace Sys2Proof.Machine

/-! ### Acceptance -/

/-- The command `i` asks for an operation of the engine in the mode `mode`, the direction `dir` and for `len` bytes, and
is given it (44_mode_controller.md R235). -/
def StartsBlock (i : Instr) (mode : OpMode) (dir : OpDir) (len : Fin 17) : Prop :=
  ∀ s : State, s.ready → s.kvalid = true → (mode = .ctr → s.ctrOvf = false) →
    exec i s = .next (blockStart mode dir len s)

/-- A command that is `BlockAccept` behind the tests of `BUSY` and `ERR` is accepted with a schedule, and in CTR mode
with a counter that is not used up. -/
theorem StartsBlock.of_exec {i : Instr} {mode : OpMode} {dir : OpDir} {len : Fin 17} {v : Byte}
    (hexec : ∀ s, exec i s = .next (guarded v (blockAccept v mode dir len) s)) : StartsBlock i mode dir len := by
  intro s h hk ho
  rw [hexec, guarded_of_ready _ _ _ h.1 h.2, blockAccept_of_key _ _ _ _ _ hk ho]

theorem startsBlock_ecbEnc : StartsBlock .ecbEnc .ecb .encrypt 16 := .of_exec fun _ => rfl

theorem startsBlock_ecbDec : StartsBlock .ecbDec .ecb .decrypt 16 := .of_exec fun _ => rfl

theorem startsBlock_cbcEnc : StartsBlock .cbcEnc .cbc .encrypt 16 := .of_exec fun _ => rfl

theorem startsBlock_cbcDec : StartsBlock .cbcDec .cbc .decrypt 16 := .of_exec fun _ => rfl

/-- The direction bit of `CTR.BLK` is ignored (44_mode_controller.md R245). -/
theorem startsBlock_ctrBlk (dir : Bool) : StartsBlock (.ctrBlk dir) .ctr .encrypt 16 :=
  StartsBlock.of_exec (dir := dirOfBit dir) fun _ => rfl

/-- The empty block apart, `CTR.PART n` asks for `n` bytes (44_mode_controller.md R242). -/
theorem startsBlock_ctrPart {n : BitVec 4} (hn : n ≠ 0) : StartsBlock (.ctrPart n) .ctr .encrypt (partLen n) := by
  have haccept : ctrPartAccept n = blockAccept (encode (.ctrPart n)) .ctr .encrypt (partLen n) :=
    funext fun s => ctrPartAccept_of_ne n s hn
  exact .of_exec fun s => by rw [← haccept]; rfl

/-! ### The engine -/

theorem blockRun_succ_of_blockStep {s t : State} (h : blockStep s = .next t) (n : Nat) :
    blockRun (n + 1) s = blockRun n t := by
  rw [blockRun, h]

/-- `s` with the cipher state `b`, before round `r`. -/
def inRound (b : Block) (r : Fin 15) (s : State) : State := { s with sreg := b, rnd := r }

theorem inRound_self {s : State} {r : Fin 15} (hr : s.rnd = r) : inRound s.sreg r s = s := by
  subst hr
  rfl

theorem blockStep_of_enc {s : State} (hp : s.phase = .enc) : blockStep s = encStep s := by
  unfold blockStep
  rw [hp]

theorem blockStep_of_dec {s : State} (hp : s.phase = .dec) : blockStep s = decStep s := by
  unfold blockStep
  rw [hp]

/-- 43_round_engine.md R201, before the last round. -/
theorem blockStep_inRound_enc {s : State} (hp : s.phase = .enc) (b : Block) {r r' : Fin 15} (hnext : r'.val = r.val + 1)
    (hlt : r.val < (nrOf s.klen).val) :
    blockStep (inRound b r s) = .next (inRound (encRound b s.rk.toList r.val (nrOf s.klen).val) r' s) := by
  rw [show r' = ⟨r.val + 1, hnext ▸ r'.isLt⟩ from Fin.ext hnext]
  exact (blockStep_of_enc (s := inRound b r s) hp).trans (encStep_of_lt (s := inRound b r s) hlt)

/-- 43_round_engine.md R201, the last round. -/
theorem blockStep_inRound_enc_last {s : State} (hp : s.phase = .enc) (b : Block) {c : Block}
    (hc : encRound b s.rk.toList (nrOf s.klen).val (nrOf s.klen).val = c) :
    blockStep (inRound b (nrOf s.klen) s) = .next (finish c (inRound c (nrOf s.klen) s)) := by
  subst hc
  exact (blockStep_of_enc (s := inRound b (nrOf s.klen) s) hp).trans (encStep_of_eq rfl)

/-- 43_round_engine.md R203, before the last round. -/
theorem blockStep_inRound_dec {s : State} (hp : s.phase = .dec) (b : Block) {r r' : Fin 15} (hnext : r.val = r'.val + 1)
    (hle : r.val ≤ (nrOf s.klen).val) :
    blockStep (inRound b r s) = .next (inRound (decRound b s.rk.toList r.val (nrOf s.klen).val) r' s) := by
  rw [show r' = ⟨r.val - 1, by omega⟩ from Fin.ext (by simp [hnext])]
  exact (blockStep_of_dec (s := inRound b r s) hp).trans
    (decStep_of_pos (s := inRound b r s) (hnext ▸ Nat.succ_ne_zero _) hle)

/-- 43_round_engine.md R203, the last round. -/
theorem blockStep_inRound_dec_last {s : State} (hp : s.phase = .dec) (b : Block) {c : Block}
    (hc : decRound b s.rk.toList 0 (nrOf s.klen).val = c) :
    blockStep (inRound b 0 s) = .next (finish c (inRound c 0 s)) := by
  subst hc
  exact (blockStep_of_dec (s := inRound b 0 s) hp).trans (decStep_of_zero rfl)

/-- Rounds of the forward cipher, none of them the last, counted up from the first. -/
theorem blockRun_enc_rounds {s : State} (hp : s.phase = .enc) (b : Block) (r : Fin 15)
    (hle : r.val ≤ (nrOf s.klen).val) :
    blockRun r.val (inRound b 0 s) = .next (inRound
      ((List.range r.val).foldl (fun b r => encRound b s.rk.toList r (nrOf s.klen).val) b) r s) := by
  obtain ⟨r, hr⟩ := r
  induction r with
  | zero => rfl
  | succ r ih =>
    have hrun := ih (Nat.lt_of_succ_lt hr) (Nat.le_of_succ_le hle)
    rw [blockRun_succ_of_blockRun hrun, List.range_succ, List.foldl_concat]
    exact blockStep_inRound_enc hp _ rfl hle

/-- The forward cipher from its first round to the finish: `Nr + 1` steps. -/
theorem blockRun_enc {s : State} (hp : s.phase = .enc) (h0 : s.rnd = 0) {c : Block}
    (hc : cipher s.rk.toList (nrOf s.klen).val s.sreg = c) :
    blockRun ((nrOf s.klen).val + 1) s = .next (finish c (inRound c (nrOf s.klen) s)) := by
  obtain ⟨hrounds, -⟩ := roundsComposeToCiphers s.rk.toList (nrOf s.klen).val s.sreg (nrOf_pos s.klen)
  rw [List.range_succ, List.foldl_concat] at hrounds
  have hrun := blockRun_enc_rounds hp s.sreg (nrOf s.klen) le_rfl
  rw [inRound_self h0] at hrun
  rw [blockRun_succ_of_blockRun hrun]
  exact blockStep_inRound_enc_last hp _ (hrounds.trans hc)

/-- The inverse cipher from round `r` down to the finish. -/
theorem blockRun_dec_rounds {s : State} (hp : s.phase = .dec) (b : Block) (r : Fin 15)
    (hle : r.val ≤ (nrOf s.klen).val) {c : Block}
    (hc : (List.range (r.val + 1)).reverse.foldl (fun b r => decRound b s.rk.toList r (nrOf s.klen).val) b = c) :
    blockRun (r.val + 1) (inRound b r s) = .next (finish c (inRound c 0 s)) := by
  obtain ⟨r, hr⟩ := r
  induction r generalizing b with
  | zero => exact blockRun_succ_of_blockStep (blockStep_inRound_dec_last hp b hc) 0
  | succ r ih =>
    rw [List.range_succ, List.reverse_concat, List.foldl_cons] at hc
    rw [blockRun_succ_of_blockStep (blockStep_inRound_dec (r' := ⟨r, Nat.lt_of_succ_lt hr⟩) hp b rfl hle)]
    exact ih _ _ (Nat.le_of_succ_le hle) hc

/-- The inverse cipher from its first round to the finish: `Nr + 1` steps. -/
theorem blockRun_dec {s : State} (hp : s.phase = .dec) (hr : s.rnd = nrOf s.klen) {c : Block}
    (hc : invCipher s.rk.toList (nrOf s.klen).val s.sreg = c) :
    blockRun ((nrOf s.klen).val + 1) s = .next (finish c (inRound c 0 s)) := by
  obtain ⟨-, hrounds⟩ := roundsComposeToCiphers s.rk.toList (nrOf s.klen).val s.sreg (nrOf_pos s.klen)
  have hrun := blockRun_dec_rounds hp s.sreg (nrOf s.klen) le_rfl (hrounds.trans hc)
  rwa [inRound_self hr] at hrun

/-! ### From acceptance to finish -/

/-- The block function of a mode and direction: the inverse cipher where the engine is in `DEC`
(44_mode_controller.md R235). -/
def blockFunction (mode : OpMode) (dir : OpDir) (w : Schedule) (nr : Nat) : Block → Block :=
  match latchedDir mode dir with
  | .encrypt => cipher w nr
  | .decrypt => invCipher w nr

/-- The round the engine ends in. -/
def finalRound (mode : OpMode) (dir : OpDir) (kl : KeyLen) : Fin 15 :=
  match latchedDir mode dir with
  | .encrypt => nrOf kl
  | .decrypt => 0

/-- The cipher state an operation started in `s` ends with. -/
def blockResult (mode : OpMode) (dir : OpDir) (s : State) : Block :=
  blockFunction mode dir s.rk.toList (nrOf s.klen).val (engineInput mode dir s)

/-- An operation started in the idle state `s` and ended. -/
def blockDone (mode : OpMode) (dir : OpDir) (len : Fin 17) (s : State) : State :=
  { s with
    dout := finishDout (blockResult mode dir s) (blockStart mode dir len s)
    chain := finishChain (blockResult mode dir s) (blockStart mode dir len s)
    ctrOvf := if mode == .ctr then ctrWraps s.ctr else s.ctrOvf
    ctr := if mode == .ctr then s.ctr + 1 else s.ctr
    doutValid := true
    sreg := blockResult mode dir s
    rnd := finalRound mode dir s.klen
    opmode := mode
    opdir := latchedDir mode dir
    oplen := len }

/-- The finish reads nothing of what the rounds write, and the block is idle as it was before the command. -/
theorem finish_inRound_blockStart (mode : OpMode) (dir : OpDir) (len : Fin 17) {s : State} (hp : s.phase = .idle) :
    finish (blockResult mode dir s) (inRound (blockResult mode dir s) (finalRound mode dir s.klen)
      (blockStart mode dir len s)) = blockDone mode dir len s := by
  simp only [finish, inRound, blockDone, hp]
  rfl

/-- The engine's run of an accepted operation: `Nr + 1` steps of the cipher its direction asks for. -/
theorem blockRun_blockStart (mode : OpMode) (dir : OpDir) (len : Fin 17) {s : State} (hp : s.phase = .idle) :
    blockRun ((nrOf s.klen).val + 1) (blockStart mode dir len s) = .next (blockDone mode dir len s) := by
  rw [← finish_inRound_blockStart mode dir len hp]
  cases hd : latchedDir mode dir with
  | encrypt =>
    rw [finalRound, hd]
    exact blockRun_enc (s := blockStart mode dir len s) (by simp [enginePhase, hd]) (by simp [firstRound, hd])
      (by simp [blockResult, blockFunction, hd])
  | decrypt =>
    rw [finalRound, hd]
    exact blockRun_dec (s := blockStart mode dir len s) (by simp [enginePhase, hd]) (by simp [firstRound, hd])
      (by simp [blockResult, blockFunction, hd])

/-- A block command in a state that meets its preconditions. -/
theorem StartsBlock.run {i : Instr} {mode : OpMode} {dir : OpDir} {len : Fin 17} (hi : StartsBlock i mode dir len)
    {s : State} (h : s.ready) (hk : s.kvalid = true) (ho : mode = .ctr → s.ctrOvf = false) :
    ∃ t, exec i s = .next t ∧ t = blockStart mode dir len s ∧
      blockRun ((nrOf s.klen).val + 1) t = .next (blockDone mode dir len s) :=
  ⟨_, hi s h hk ho, rfl, blockRun_blockStart mode dir len ((not_busy_iff s).mp h.1)⟩

/-- Settles O23: the run of a block command, which is here the forward cipher of `DIN`. -/
theorem ecbEncEncryptsDin : Obligations.EcbEncEncryptsDin :=
  ⟨decodeEncodeAgree .ecbEnc rfl, fun _ h hk => startsBlock_ecbEnc.run h hk nofun⟩

/-- Settles O24: the run of a block command, which is here the inverse cipher of `DIN`. -/
theorem ecbDecDecryptsDin : Obligations.EcbDecDecryptsDin :=
  ⟨decodeEncodeAgree .ecbDec rfl, fun _ h hk => startsBlock_ecbDec.run h hk nofun⟩

/-- Settles O25: the run of a block command, which is here the forward cipher of `DIN` XOR `CHAIN`. -/
theorem cbcEncChainsItsOutput : Obligations.CbcEncChainsItsOutput :=
  ⟨decodeEncodeAgree .cbcEnc rfl, fun _ h hk => startsBlock_cbcEnc.run h hk nofun⟩

/-- Settles O26: the run of a block command, which is here the inverse cipher of `DIN`, XORed with the old
`CHAIN` at the finish. -/
theorem cbcDecChainsItsInput : Obligations.CbcDecChainsItsInput :=
  ⟨decodeEncodeAgree .cbcDec rfl, fun _ h hk => startsBlock_cbcDec.run h hk nofun⟩

/-! ### The counter commands -/

/-- In CTR mode `DOUT` is `DIN` XOR the keystream, cut to the bytes asked for (44_mode_controller.md R236). -/
theorem finishDout_ctr (t : Block) {s : State} (hm : s.opmode = .ctr) :
    finishDout t s = keepFirst s.oplen.val (xorBytes s.din t) := by
  ext k hk
  simp [finishDout, hm, keepFirst, gfAdd]

theorem getElem_keepFirst (n : Nat) (b : Block) (k : Nat) (hk : k < 16) :
    (keepFirst n b)[k] = if k < n then b[k] else 0x00 := by
  simp [keepFirst]

/-- Of a full block nothing is cut. -/
theorem keepFirst_full (b : Block) : keepFirst (16 : Fin 17).val b = b := by
  ext k hk : 1
  exact (getElem_keepFirst _ b k hk).trans (if_pos hk)

/-- A counter command, ended, with the registers it writes. -/
theorem blockDone_ctr (len : Fin 17) (s : State) :
    blockDone .ctr .encrypt len s = { s with
      dout := keepFirst len.val (xorBytes s.din (cipher s.rk.toList (nrOf s.klen).val (counterBlock s.nonce s.ctr)))
      ctr := s.ctr + 1
      ctrOvf := decide (s.ctr.toNat = 2 ^ 64 - 1)
      doutValid := true
      sreg := cipher s.rk.toList (nrOf s.klen).val (counterBlock s.nonce s.ctr)
      rnd := nrOf s.klen, opmode := .ctr, opdir := .encrypt, oplen := len } := by
  rw [blockDone, finishDout_ctr _ (s := blockStart .ctr .encrypt len s) rfl, ctrWraps_eq_decide]
  rfl

/-- Settles O27: the direction bit is gone with the acceptance, and of a full block nothing is cut. -/
theorem ctrBlkXorsKeystream : Obligations.CtrBlkXorsKeystream := by
  refine ⟨decodeEncodeAgree (.ctrBlk false) rfl, decodeEncodeAgree (.ctrBlk true) rfl, fun s dir h hk ho => ?_⟩
  have hrun := (startsBlock_ctrBlk dir).run h hk fun _ => ho
  rw [blockDone_ctr, keepFirst_full] at hrun
  exact hrun

/-- Settles O28: the run of a counter command, with `DOUT` read byte by byte. -/
theorem ctrPartTruncatesKeystream : Obligations.CtrPartTruncatesKeystream := by
  intro s n hn h hk ho
  obtain ⟨t, hexec, hstart, hrun⟩ := (startsBlock_ctrPart hn).run h hk fun _ => ho
  rw [blockDone_ctr] at hrun
  refine ⟨decode_encode_ctrPart hn, t, _, hexec, hstart, hrun, fun k => ?_⟩
  rw [getElem_keepFirst, getElem_xorBytes]
  rfl

end Sys2Proof.Machine
end

section
/-! PROOFS of the mode statements (44_mode_controller.md R246, R247): messages through block commands. One block is one
engine operation; a message is an induction over its blocks, with the chaining register or the counter carried along. -/

namespace Sys2Proof.Machine

/-! ### One block -/

/-- `s` is ready for a block command: idle and error-free, with the words `w` in `RK` as a schedule of the variant
`kl`. -/
structure KeyedWith (kl : KeyLen) (w : Schedule) (s : State) : Prop where
  ready : s.ready
  kvalid : s.kvalid = true
  klen : s.klen = kl
  words : s.rk.toList = w

/-- `s` is ready for a counter command too: the counter is `k`, and has not been used up. -/
structure CounterAt (nonce : Vector Byte 8) (k : Nat) (s : State) : Prop where
  nonce : s.nonce = nonce
  ctr : s.ctr = BitVec.ofNat 64 k
  ctrOvf : s.ctrOvf = false

theorem CounterAt.ctr_toNat {nonce : Vector Byte 8} {k : Nat} {s : State} (h : CounterAt nonce k s) (hk : k < 2 ^ 64) :
    s.ctr.toNat = k := by
  rw [h.ctr, BitVec.toNat_ofNat, Nat.mod_eq_of_lt hk]

/-- One block through a command that is accepted: `DIN` is filled, and the operation runs to its end. -/
theorem StartsBlock.runBlock_eq {i : Instr} {mode : OpMode} {dir : OpDir} {len : Fin 17}
    (hi : StartsBlock i mode dir len) {s : State} (h : s.ready) (hk : s.kvalid = true)
    (ho : mode = .ctr → s.ctrOvf = false) (b : Block) :
    runBlock i b s =
      some ((blockDone mode dir len { s with din := b }).dout, blockDone mode dir len { s with din := b }) := by
  obtain ⟨t, hexec, -, hrun⟩ := hi.run (s := { s with din := b }) h hk ho
  simp only [runBlock, hexec, hrun]

theorem blockFunction_ecb_encrypt (w : Schedule) (nr : Nat) : blockFunction .ecb .encrypt w nr = cipher w nr := rfl

theorem blockFunction_ecb_decrypt (w : Schedule) (nr : Nat) : blockFunction .ecb .decrypt w nr = invCipher w nr := rfl

section
variable {kl : KeyLen} {w : Schedule} {s : State}

/-- One block through an ECB command (44_mode_controller.md R237, R238). -/
theorem KeyedWith.runBlock_ecb {i : Instr} {dir : OpDir} (h : KeyedWith kl w s) (hi : StartsBlock i .ecb dir 16)
    (b : Block) :
    ∃ t, runBlock i b s = some (blockFunction .ecb dir w (nrOf kl).val b, t) ∧ KeyedWith kl w t := by
  obtain ⟨hr, hk, rfl, rfl⟩ := h
  exact ⟨_, hi.runBlock_eq hr hk nofun b, hr, hk, rfl, rfl⟩

/-- One block through `CBC.ENC` (44_mode_controller.md R239). -/
theorem KeyedWith.runBlock_cbcEnc (h : KeyedWith kl w s) (b : Block) :
    ∃ t, runBlock .cbcEnc b s = some (cipher w (nrOf kl).val (xorBytes b s.chain), t) ∧ KeyedWith kl w t ∧
      t.chain = cipher w (nrOf kl).val (xorBytes b s.chain) := by
  obtain ⟨hr, hk, rfl, rfl⟩ := h
  exact ⟨_, startsBlock_cbcEnc.runBlock_eq hr hk nofun b, ⟨hr, hk, rfl, rfl⟩, rfl⟩

/-- One block through `CBC.DEC` (44_mode_controller.md R240). -/
theorem KeyedWith.runBlock_cbcDec (h : KeyedWith kl w s) (b : Block) :
    ∃ t, runBlock .cbcDec b s = some (xorBytes (invCipher w (nrOf kl).val b) s.chain, t) ∧ KeyedWith kl w t ∧
      t.chain = b := by
  obtain ⟨hr, hk, rfl, rfl⟩ := h
  exact ⟨_, startsBlock_cbcDec.runBlock_eq hr hk nofun b, ⟨hr, hk, rfl, rfl⟩, rfl⟩

/-- One block through a counter command (44_mode_controller.md R241, R242). The command is refused after it only if the
counter was the last one (R244). -/
theorem KeyedWith.runBlock_ctr {i : Instr} {len : Fin 17} {nonce : Vector Byte 8} {k : Nat} (h : KeyedWith kl w s)
    (hc : CounterAt nonce k s) (hi : StartsBlock i .ctr .encrypt len) (b : Block) :
    ∃ t, runBlock i b s = some (keepFirst len.val
        (xorBytes b (cipher w (nrOf kl).val (counterBlock nonce (BitVec.ofNat 64 k)))), t) ∧
      KeyedWith kl w t ∧ (k + 1 < 2 ^ 64 → CounterAt nonce (k + 1) t) := by
  obtain ⟨hr, hk, rfl, rfl⟩ := h
  obtain rfl := hc.nonce
  have hrun := hi.runBlock_eq hr hk (fun _ => hc.ctrOvf) b
  rw [blockDone_ctr] at hrun
  rw [← hc.ctr]
  refine ⟨_, hrun, ⟨hr, hk, rfl, rfl⟩, fun hlt => ⟨rfl, ?_, decide_eq_false ?_⟩⟩
  · rw [BitVec.ofNat_add, ← hc.ctr]
    rfl
  · have hnat : s.ctr.toNat = k := hc.ctr_toNat (Nat.lt_of_succ_lt hlt)
    show ¬ s.ctr.toNat = 2 ^ 64 - 1
    omega

/-! ### Messages -/

theorem runMessage_cons {i : Instr} {b c : Block} {bs cs : List Block} {s t u : State}
    (hb : runBlock i b s = some (c, t)) (hbs : runMessage i bs t = some (cs, u)) :
    runMessage i (b :: bs) s = some (c :: cs, u) := by
  simp only [runMessage, hb, hbs]

/-- 44_mode_controller.md R246.1. -/
theorem KeyedWith.runMessage_ecb {i : Instr} {dir : OpDir} (h : KeyedWith kl w s) (hi : StartsBlock i .ecb dir 16)
    (bs : List Block) :
    ∃ t, runMessage i bs s = some (bs.map (blockFunction .ecb dir w (nrOf kl).val), t) ∧ KeyedWith kl w t := by
  induction bs generalizing s with
  | nil => exact ⟨s, rfl, h⟩
  | cons b bs ih =>
    obtain ⟨t, hb, ht⟩ := h.runBlock_ecb hi b
    obtain ⟨u, hbs, hu⟩ := ih ht
    exact ⟨u, runMessage_cons hb hbs, hu⟩

/-- 44_mode_controller.md R246.2. -/
theorem KeyedWith.runMessage_cbcEnc {iv : Block} (h : KeyedWith kl w s) (hiv : s.chain = iv) (bs : List Block) :
    ∃ t, runMessage .cbcEnc bs s = some (cbcEncrypt (cipher w (nrOf kl).val) iv bs, t) ∧ KeyedWith kl w t ∧
      t.chain = (cbcEncrypt (cipher w (nrOf kl).val) iv bs).getLastD iv := by
  induction bs generalizing s iv with
  | nil => exact ⟨s, rfl, h, hiv⟩
  | cons b bs ih =>
    subst hiv
    obtain ⟨t, hb, ht, hchain⟩ := h.runBlock_cbcEnc b
    obtain ⟨u, hbs, hu, hlast⟩ := ih ht hchain
    exact ⟨u, runMessage_cons hb hbs, hu, by rw [hlast, cbcEncrypt, List.getLastD_cons]⟩

/-- 44_mode_controller.md R246.3. -/
theorem KeyedWith.runMessage_cbcDec {iv : Block} (h : KeyedWith kl w s) (hiv : s.chain = iv) (bs : List Block) :
    ∃ t, runMessage .cbcDec bs s = some (cbcDecrypt (invCipher w (nrOf kl).val) iv bs, t) ∧ KeyedWith kl w t ∧
      t.chain = bs.getLastD iv := by
  induction bs generalizing s iv with
  | nil => exact ⟨s, rfl, h, hiv⟩
  | cons b bs ih =>
    subst hiv
    obtain ⟨t, hb, ht, hchain⟩ := h.runBlock_cbcDec b
    obtain ⟨u, hbs, hu, hlast⟩ := ih ht hchain
    exact ⟨u, runMessage_cons hb hbs, hu, by rw [hlast, List.getLastD_cons]⟩

/-- 44_mode_controller.md R246.4, the full blocks, from any counter on that leaves room for them. -/
theorem KeyedWith.runMessage_ctrBlk {nonce : Vector Byte 8} {k : Nat} (h : KeyedWith kl w s)
    (hc : CounterAt nonce k s) (dir : Bool) {bs : List Block} (hlen : k + bs.length < 2 ^ 64) :
    ∃ t, runMessage (.ctrBlk dir) bs s = some (ctrProcess (cipher w (nrOf kl).val) nonce (BitVec.ofNat 64 k) bs, t) ∧
      KeyedWith kl w t ∧ CounterAt nonce (k + bs.length) t := by
  induction bs generalizing s k with
  | nil => exact ⟨s, rfl, h, hc⟩
  | cons b bs ih =>
    rw [List.length_cons, ← Nat.add_assoc, Nat.add_right_comm] at hlen ⊢
    obtain ⟨t, hb, ht, htc⟩ := h.runBlock_ctr hc (startsBlock_ctrBlk dir) b
    obtain ⟨u, hbs, hu, huc⟩ := ih ht (htc (by omega)) hlen
    rw [keepFirst_full] at hb
    rw [BitVec.ofNat_add] at hbs
    exact ⟨u, runMessage_cons hb hbs, hu, huc⟩

/-! ### Messages with their load command -/

/-- `SETIV` leaves the machine ready for a message, with `iv` as the chaining value (44_mode_controller.md R233). -/
theorem KeyedWith.setIv (h : KeyedWith kl w s) (iv : Block) :
    ∃ t, Machine.setIv iv s = some t ∧ KeyedWith kl w t ∧ t.chain = iv := by
  have hload := exec_loadiv_of_ready (s := { s with din := iv }) h.ready
  exact ⟨loadChain { s with din := iv }, by simp only [Machine.setIv, hload], ⟨h.ready, h.kvalid, h.klen, h.words⟩, rfl⟩

/-- `SETNONCE` leaves the machine ready for a message, with the counter at 0 (44_mode_controller.md R234). -/
theorem KeyedWith.setNonce (h : KeyedWith kl w s) (v : Block) :
    ∃ t, Machine.setNonce v s = some t ∧ KeyedWith kl w t ∧ CounterAt (dinNonce v) 0 t := by
  have hload := exec_loadnonce_of_ready (s := { s with din := v }) h.ready
  exact ⟨loadNonce { s with din := v }, by simp only [Machine.setNonce, hload], ⟨h.ready, h.kvalid, h.klen, h.words⟩,
    rfl, rfl, rfl⟩

theorem KeyedWith.runCbc_enc (h : KeyedWith kl w s) (iv : Block) (bs : List Block) :
    ∃ t, runCbc .cbcEnc iv bs s = some (cbcEncrypt (cipher w (nrOf kl).val) iv bs, t) ∧ KeyedWith kl w t ∧
      t.chain = (cbcEncrypt (cipher w (nrOf kl).val) iv bs).getLastD iv := by
  obtain ⟨t, hset, ht, hchain⟩ := h.setIv iv
  simp only [runCbc, hset]
  exact ht.runMessage_cbcEnc hchain bs

theorem KeyedWith.runCbc_dec (h : KeyedWith kl w s) (iv : Block) (bs : List Block) :
    ∃ t, runCbc .cbcDec iv bs s = some (cbcDecrypt (invCipher w (nrOf kl).val) iv bs, t) ∧ KeyedWith kl w t ∧
      t.chain = bs.getLastD iv := by
  obtain ⟨t, hset, ht, hchain⟩ := h.setIv iv
  simp only [runCbc, hset]
  exact ht.runMessage_cbcDec hchain bs

/-- A CTR message without a tail. -/
theorem KeyedWith.runCtr_none (h : KeyedWith kl w s) (nonce : Block) (dir : Bool) {bs : List Block}
    (hlen : bs.length < 2 ^ 64) :
    ∃ t, runCtr nonce dir bs none s =
        some (ctrProcess (cipher w (nrOf kl).val) (dinNonce nonce) 0 bs, none, t) ∧
      KeyedWith kl w t ∧ CounterAt (dinNonce nonce) bs.length t := by
  obtain ⟨t, hset, ht, htc⟩ := h.setNonce nonce
  obtain ⟨u, hbs, hu, huc⟩ := ht.runMessage_ctrBlk htc dir (bs := bs) (by omega)
  rw [Nat.zero_add] at huc
  exact ⟨u, by simp only [runCtr, hset, hbs]; rfl, hu, huc⟩

/-- A CTR message with a tail. -/
theorem KeyedWith.runCtr_some (h : KeyedWith kl w s) (nonce : Block) (dir : Bool) {bs : List Block}
    (hlen : bs.length < 2 ^ 64) {n : BitVec 4} (hn : n ≠ 0) (b : Block) :
    ∃ t, runCtr nonce dir bs (some (n, b)) s =
        some (ctrProcess (cipher w (nrOf kl).val) (dinNonce nonce) 0 bs, some (n, keepFirst n.toNat (xorBytes b
          (cipher w (nrOf kl).val (counterBlock (dinNonce nonce) (BitVec.ofNat 64 bs.length))))), t) ∧
      KeyedWith kl w t ∧ (bs.length + 1 < 2 ^ 64 → CounterAt (dinNonce nonce) (bs.length + 1) t) := by
  obtain ⟨t, hset, ht, htc⟩ := h.setNonce nonce
  obtain ⟨u, hbs, hu, huc⟩ := ht.runMessage_ctrBlk htc dir (bs := bs) (by omega)
  rw [Nat.zero_add] at huc
  obtain ⟨v, hb, hv, hvc⟩ := hu.runBlock_ctr huc (startsBlock_ctrPart hn) b
  exact ⟨v, by simp only [runCtr, hset, hbs, hb]; rfl, hv, hvc⟩

end

/-- Settles O56: the four sequences, each from `s` with its own schedule. -/
theorem ecbAndCbcMessagesFollowRecurrences : Obligations.EcbAndCbcMessagesFollowRecurrences := by
  intro bs iv s hr hk
  have h : KeyedWith s.klen s.rk.toList s := ⟨hr, hk, rfl, rfl⟩
  obtain ⟨t₁, hrun₁, ht₁⟩ := h.runMessage_ecb startsBlock_ecbEnc bs
  obtain ⟨t₂, hrun₂, ht₂⟩ := h.runMessage_ecb startsBlock_ecbDec bs
  obtain ⟨t₃, hrun₃, ht₃, hchain₃⟩ := h.runCbc_enc iv bs
  obtain ⟨t₄, hrun₄, ht₄, hchain₄⟩ := h.runCbc_dec iv bs
  exact ⟨⟨t₁, hrun₁, ht₁.ready⟩, ⟨t₂, hrun₂, ht₂.ready⟩, ⟨t₃, hrun₃, ht₃.ready, hchain₃⟩,
    ⟨t₄, hrun₄, ht₄.ready, hchain₄⟩⟩

/-- Settles O57: without a tail the counter is the number of blocks, with one it is one more. -/
theorem ctrMessageFollowsCounter : Obligations.CtrMessageFollowsCounter := by
  intro bs tail nonce dir s hr hk htail hlen
  have h : KeyedWith s.klen s.rk.toList s := ⟨hr, hk, rfl, rfl⟩
  cases tail with
  | none =>
    obtain ⟨t, hrun, ht, hc⟩ := h.runCtr_none nonce dir hlen
    exact ⟨t, hrun, ht.ready, hc.ctr_toNat hlen, hc.ctrOvf⟩
  | some p =>
    obtain ⟨n, b⟩ := p
    obtain ⟨t, hrun, ht, hc⟩ := h.runCtr_some nonce dir (Nat.lt_of_succ_lt hlen) (htail n b rfl) b
    exact ⟨t, hrun, ht.ready, (hc hlen).ctr_toNat hlen, (hc hlen).ctrOvf⟩

/-! ### Round trips -/

/-- Each plaintext block is XORed with the same chaining value on both ways. -/
theorem cbcDecrypt_cbcEncrypt {e d : Block → Block} (h : ∀ b, d (e b) = b) (iv : Block) (ps : List Block) :
    cbcDecrypt d iv (cbcEncrypt e iv ps) = ps := by
  induction ps generalizing iv with
  | nil => rfl
  | cons p ps ih => rw [cbcEncrypt, cbcDecrypt, ih, h, xorBytes_cancel]

theorem ctrProcess_ctrProcess (e : Block → Block) (nonce : Vector Byte 8) (ctr : BitVec 64) (bs : List Block) :
    ctrProcess e nonce ctr (ctrProcess e nonce ctr bs) = bs := by
  induction bs generalizing ctr with
  | nil => rfl
  | cons b bs ih => rw [ctrProcess, ctrProcess, ih, xorBytes_cancel]

theorem length_ctrProcess (e : Block → Block) (nonce : Vector Byte 8) (ctr : BitVec 64) (bs : List Block) :
    (ctrProcess e nonce ctr bs).length = bs.length := by
  induction bs generalizing ctr with
  | nil => rfl
  | cons b bs ih => rw [ctrProcess, List.length_cons, List.length_cons, ih]

/-- The bytes that are cut off do not enter the bytes that are kept. -/
theorem keepFirst_xorBytes_keepFirst (n : Nat) (b c : Block) :
    keepFirst n (xorBytes (keepFirst n (xorBytes b c)) c) = keepFirst n b := by
  ext k hk : 1
  by_cases hn : k < n <;> simp [getElem_keepFirst, hn]

/-- Settles O58: the message functions undo each other, and every command of both ways runs. -/
theorem modeRoundTrip : Obligations.ModeRoundTrip := by
  intro bs s hr hk
  have h : KeyedWith s.klen s.rk.toList s := ⟨hr, hk, rfl, rfl⟩
  refine ⟨?ecb, fun iv => ?cbc, fun nonce dir dir' hlen => ⟨?full, fun n b hn => ?tail⟩⟩
  case ecb =>
    obtain ⟨t, henc, ht⟩ := h.runMessage_ecb startsBlock_ecbEnc bs
    obtain ⟨u, hdec, -⟩ := ht.runMessage_ecb startsBlock_ecbDec (bs.map (cipher s.rk.toList (nrOf s.klen).val))
    have hid : invCipher s.rk.toList (nrOf s.klen).val ∘ cipher s.rk.toList (nrOf s.klen).val = id :=
      funext (invCipher_cipher _ _)
    rw [blockFunction_ecb_decrypt, List.map_map, hid, List.map_id] at hdec
    exact ⟨_, t, u, henc, hdec⟩
  case cbc =>
    obtain ⟨t, henc, ht, -⟩ := h.runCbc_enc iv bs
    obtain ⟨u, hdec, -⟩ := ht.runCbc_dec iv (cbcEncrypt _ iv bs)
    rw [cbcDecrypt_cbcEncrypt (invCipher_cipher _ _)] at hdec
    exact ⟨_, t, u, henc, hdec⟩
  case full =>
    obtain ⟨t, henc, ht, -⟩ := h.runCtr_none nonce dir hlen
    obtain ⟨u, hdec, -⟩ := ht.runCtr_none nonce dir' (length_ctrProcess _ _ _ bs ▸ hlen)
    rw [ctrProcess_ctrProcess] at hdec
    exact ⟨_, t, u, henc, hdec⟩
  case tail =>
    obtain ⟨t, henc, ht, -⟩ := h.runCtr_some nonce dir hlen hn b
    obtain ⟨u, hdec, -⟩ := ht.runCtr_some nonce dir' (length_ctrProcess _ _ _ bs ▸ hlen) hn _
    rw [ctrProcess_ctrProcess, length_ctrProcess, keepFirst_xorBytes_keepFirst] at hdec
    exact ⟨_, _, t, u, henc, hdec⟩

end Sys2Proof.Machine
end

section
/-! PROOFS of the mode statements (44_mode_controller.md R248, R249): what the result of an ECB or CBC command depends
on. The ciphers read the words of the variant's schedule and nothing after them. -/

namespace Sys2Proof.Machine

/-! ### The words a cipher reads -/

/-- The round keys of `Nr` rounds are the first `4·(Nr+1)` words (43_round_engine.md R196). -/
theorem roundKey_congr {w w' : Schedule} {nr r : Nat} (h : w.take (4 * (nr + 1)) = w'.take (4 * (nr + 1)))
    (hr : r ≤ nr) : roundKey w r = roundKey w' r := by
  ext k hk : 1
  simp only [roundKey, Vector.getElem_ofFn]
  rw [wordAt_eq_of_take w w' _ _ h (by omega)]

theorem addRoundKey_congr {w w' : Schedule} {nr r : Nat} (h : w.take (4 * (nr + 1)) = w'.take (4 * (nr + 1)))
    (hr : r ≤ nr) (s : Block) : addRoundKey s w r = addRoundKey s w' r := by
  rw [addRoundKey, addRoundKey, roundKey_congr h hr]

theorem cipher_congr {w w' : Schedule} {nr : Nat} (h : w.take (4 * (nr + 1)) = w'.take (4 * (nr + 1))) (b : Block) :
    cipher w nr b = cipher w' nr b := by
  have hmiddle : ∀ s : Block, ∀ r ∈ List.range' 1 (nr - 1), encMiddle w r s = encMiddle w' r s :=
    fun s r hr => addRoundKey_congr h (bounds_of_mem_middle hr).2.le _
  rw [cipher, cipher, encFinal, encFinal, List.foldl_ext _ _ _ hmiddle, addRoundKey_congr h nr.zero_le,
    addRoundKey_congr h le_rfl]

theorem invCipher_congr {w w' : Schedule} {nr : Nat} (h : w.take (4 * (nr + 1)) = w'.take (4 * (nr + 1))) (b : Block) :
    invCipher w nr b = invCipher w' nr b := by
  have hmiddle : ∀ s : Block, ∀ r ∈ (List.range' 1 (nr - 1)).reverse, decMiddle w r s = decMiddle w' r s :=
    fun s r hr => congrArg invMixColumns (addRoundKey_congr h (bounds_of_mem_middle (List.mem_reverse.mp hr)).2.le _)
  rw [invCipher, invCipher, decFinal, decFinal, List.foldl_ext _ _ _ hmiddle, addRoundKey_congr h nr.zero_le,
    addRoundKey_congr h le_rfl]

/-! ### The commands -/

theorem xorBytes_xorBytes_cancel {n : Nat} (a b c : Vector Byte n) :
    xorBytes (xorBytes a b) (xorBytes b c) = xorBytes a c := by
  ext k hk : 1
  simp only [getElem_xorBytes]
  rw [BitVec.xor_assoc, ← BitVec.xor_assoc b[k], BitVec.xor_self, BitVec.zero_xor]

/-- Settles O60: to the ciphers the two schedules are the same, and each result is one cipher's, up to its use of
`CHAIN`. -/
theorem resultDependsOnlyOnItsInputs : Obligations.ResultDependsOnlyOnItsInputs := by
  intro s t b b' hs ht hks hkt hkl hwords
  have hS : KeyedWith s.klen s.rk.toList s := ⟨hs, hks, rfl, rfl⟩
  have hT : KeyedWith s.klen t.rk.toList t := ⟨ht, hkt, hkl.symm, rfl⟩
  have hcipher := cipher_congr hwords
  have hinv := invCipher_congr hwords
  refine ⟨?ecbEnc, ?ecbDec, ?cbcDec, fun hxor => ?cbcEnc⟩
  case ecbEnc =>
    obtain ⟨s', hs', -⟩ := hS.runBlock_ecb startsBlock_ecbEnc b
    obtain ⟨t', ht', -⟩ := hT.runBlock_ecb startsBlock_ecbEnc b
    rw [blockFunction_ecb_encrypt, ← hcipher] at ht'
    exact ⟨_, s', t', hs', ht'⟩
  case ecbDec =>
    obtain ⟨s', hs', -⟩ := hS.runBlock_ecb startsBlock_ecbDec b
    obtain ⟨t', ht', -⟩ := hT.runBlock_ecb startsBlock_ecbDec b
    rw [blockFunction_ecb_decrypt, ← hinv] at ht'
    exact ⟨_, s', t', hs', ht'⟩
  case cbcDec =>
    obtain ⟨s', hs', -⟩ := hS.runBlock_cbcDec b
    obtain ⟨t', ht', -⟩ := hT.runBlock_cbcDec b
    rw [← hinv] at ht'
    exact ⟨_, s', t', hs', by rw [ht', xorBytes_xorBytes_cancel]⟩
  case cbcEnc =>
    obtain ⟨s', hs', -⟩ := hS.runBlock_cbcEnc b
    obtain ⟨t', ht', -⟩ := hT.runBlock_cbcEnc b'
    rw [← hcipher, ← hxor] at ht'
    exact ⟨_, s', t', hs', ht'⟩

end Sys2Proof.Machine
end

section
/-! PROOFS of the error statements (60_exceptions.md): the laws of the error record that the statements below use. What
the block's step and a command can do to the record, and which command is behind which tests. -/

namespace Sys2Proof.Machine

/-! ### The record, transition by transition -/

/-- 60_exceptions.md R280: no error arises in the block's own steps. -/
theorem BlockEffect.keeps_record {s t : State} (h : BlockEffect s t) :
    t.err = s.err ∧ t.errcode = s.errcode ∧ t.errinfo = s.errinfo := by
  cases h <;> exact ⟨rfl, rfl, rfl⟩

/-- 60_exceptions.md R290: a command that raises an error writes the record and nothing else. -/
theorem CommandEffect.eq_of_raises {v : Byte} {s t : State} (h : CommandEffect v s t) (hs : s.err = false)
    (ht : t.err = true) : ∃ c, t = { s with err := true, errcode := causeCode c, errinfo := v } := by
  cases h with
  | error c => exact ⟨c, rfl⟩
  | clear => cases ht
  | _ => exact nomatch hs.symm.trans ht

/-- 60_exceptions.md R292, R293: in fault-stop a command changes nothing, or it is `CLRERR` and clears the record. -/
theorem CommandEffect.eq_of_err {v : Byte} {s t : State} (h : CommandEffect v s t) (hs : s.err = true) :
    t = s ∨ (v = 0x60 ∧ t = { s with err := false, errcode := 0x00, errinfo := 0x00 }) := by
  cases h with
  | nothing => exact .inl rfl
  | clear hv => exact .inr ⟨hv, rfl⟩
  | error _ he | loadiv he | loadnonce he | keyexp _ he | block _ _ _ _ he => exact nomatch hs.symm.trans he

/-! ### A byte written to `CMD` -/

/-- The step of an idle state whose first turn is a host write to `CMD`. -/
theorem step_of_pending_cmd {s : State} {v : Byte} {rest : List Turn} (hb : s.busy = false)
    (hp : s.pending = .write 0x000 v :: rest) : step s = execute v { s with pending := rest } := by
  rw [step_of_pending s _ rest hp]
  exact hostWrite_cmd v hb

/-- A rejected byte is recorded with its cause (30_encoding.md R96, 60_exceptions.md R289). -/
theorem execute_of_rejected {s : State} {v : Byte} {c : ErrCause} (hr : s.ready) (hd : decode v = .error c) :
    execute v s = .next { s with err := true, errcode := causeCode c, errinfo := v } := by
  obtain ⟨hb, he⟩ := hr
  unfold execute
  rw [hd]
  exact congrArg Host.Outcome.next ((guarded_of_ready _ _ s hb he).trans (raiseErr_of_clear _ _ s he))

/-- The step of a ready state whose first turn is the write of a rejected byte. -/
theorem step_of_rejected {s : State} {v : Byte} {c : ErrCause} {rest : List Turn} (hr : s.ready)
    (hp : s.pending = .write 0x000 v :: rest) (hd : decode v = .error c) :
    step s = .next { s with pending := rest, err := true, errcode := causeCode c, errinfo := v } :=
  (step_of_pending_cmd hr.1 hp).trans (execute_of_rejected (s := { s with pending := rest }) hr hd)

/-- 60_exceptions.md R292: in fault-stop every byte but that of `CLRERR` changes nothing, `NOP` included. -/
theorem execute_of_err {s : State} {v : Byte} (hb : s.busy = false) (he : s.err = true) (hv : v ≠ 0x60) :
    execute v s = .next s := by
  obtain ⟨t, ht⟩ := execute_answers v s
  obtain rfl | ⟨hclear, -⟩ := (execute_effect v s t hb ht).eq_of_err he
  · exact ht
  · exact absurd hclear hv

/-! ### The block commands -/

/-- `i` is `BlockAccept` in the mode `mode`, behind the tests of `BUSY` and `ERR` (44_mode_controller.md R235). -/
def IsBlockAccept (i : Instr) (mode : OpMode) : Prop :=
  ∃ dir len, ∀ s, exec i s = .next (guarded (encode i) (blockAccept (encode i) mode dir len) s)

theorem isBlockAccept_ctrBlk (dir : Bool) : IsBlockAccept (.ctrBlk dir) .ctr := ⟨dirOfBit dir, 16, fun _ => rfl⟩

/-- The empty block apart, `CTR.PART` goes on to `BlockAccept` (44_mode_controller.md R242). -/
theorem isBlockAccept_ctrPart {n : BitVec 4} (hn : n ≠ 0) : IsBlockAccept (.ctrPart n) .ctr := by
  have haccept : ctrPartAccept n = blockAccept (encode (.ctrPart n)) .ctr .encrypt (partLen n) :=
    funext fun s => ctrPartAccept_of_ne n s hn
  exact ⟨.encrypt, partLen n, fun s => by rw [← haccept]; rfl⟩

/-- 30_encoding.md R91: the six block commands differ in the operands of `BlockAccept` only. -/
theorem isBlockAccept_of_isBlockCommand {i : Instr} (hw : i.wf = true) (hi : isBlockCommand i = true) :
    ∃ mode, IsBlockAccept i mode := by
  cases i with
  | ecbEnc => exact ⟨.ecb, .encrypt, 16, fun _ => rfl⟩
  | ecbDec => exact ⟨.ecb, .decrypt, 16, fun _ => rfl⟩
  | cbcEnc => exact ⟨.cbc, .encrypt, 16, fun _ => rfl⟩
  | cbcDec => exact ⟨.cbc, .decrypt, 16, fun _ => rfl⟩
  | ctrBlk dir => exact ⟨.ctr, isBlockAccept_ctrBlk dir⟩
  | ctrPart n => exact ⟨.ctr, isBlockAccept_ctrPart (by simpa [Instr.wf] using hw)⟩
  | _ => cases hi

end Sys2Proof.Machine
end

section
/-! PROOFS of the error statements (60_exceptions.md): what raises an error and what it records, fault-stop, and the
return. -/

namespace Sys2Proof.Machine

/-- Settles O36: of all transitions only a command and a write while busy set `ERR`, and both write the record alone. -/
theorem errorsArePrecise : Obligations.ErrorsArePrecise := by
  intro s t h hs ht
  cases step_effect s t h with
  | engine _ _ _ hb | silent _ _ hb =>
    obtain ⟨herr, -, -⟩ := hb.keeps_record
    exact nomatch (herr.trans hs).symm.trans ht
  | command v rest hp _ _ hc =>
    obtain ⟨c, rfl⟩ := hc.eq_of_raises hs ht
    exact ⟨c, _, v, rest, hp, rfl⟩
  | busyError a v rest hp => exact ⟨.busy, a, v, rest, hp, rfl⟩
  | reset => cases ht
  | _ => exact nomatch hs.symm.trans ht

/-- Settles O37: no transition overwrites a record, and of the commands only `CLRERR` is executed in fault-stop and
writes it. -/
theorem recordStaysUntilCleared : Obligations.RecordStaysUntilCleared := by
  intro s t h hs
  cases step_effect s t h with
  | engine _ _ _ hb | silent _ _ hb =>
    obtain ⟨herr, hcode, hinfo⟩ := hb.keeps_record
    exact .inl ⟨herr.trans hs, hcode, hinfo⟩
  | command v rest hp hb _ hc =>
    obtain rfl | ⟨rfl, rfl⟩ := hc.eq_of_err hs
    · exact .inl ⟨hs, rfl, rfl⟩
    · exact .inr (.inl ⟨rest, hb, hp, rfl⟩)
  | busyError _ _ _ _ _ he => exact nomatch hs.symm.trans he
  | reset rest hp => exact .inr (.inr ⟨rest, hp⟩)
  | _ => exact .inl ⟨hs, rfl, rfl⟩

/-- Settles O30: these are the bytes that `decode` rejects with `ERR_OPCODE`. -/
theorem opcodeErrorIsRecorded : Obligations.OpcodeErrorIsRecorded := by
  intro s v rest hr hp hv
  obtain ⟨-, -, -, hopcode⟩ := rejectedBytesByCause v
  exact step_of_rejected hr hp (hopcode.mpr (by omega))

/-- Settles O31: the bytes are those that `decode` rejects with the three causes, and `CTR.PART 0` tests `n` before the
key. -/
theorem fieldErrorIsRecorded : Obligations.FieldErrorIsRecorded := by
  intro s rest hr
  refine ⟨fun hp => step_of_rejected hr hp rfl, fun v hv hp => ?mode, fun hp => step_of_rejected hr hp rfl, ?part⟩
  case mode =>
    obtain ⟨-, hmode, -, -⟩ := rejectedBytesByCause v
    exact step_of_rejected hr hp (hmode.mpr hv)
  case part =>
    obtain ⟨hb, he⟩ := hr
    calc exec (.ctrPart 0) s
      _ = .next (guarded 0x50 (raiseErr .empty 0x50) s) := rfl
      _ = _ := by rw [guarded_of_ready _ _ _ hb he, raiseErr_of_clear _ _ _ he]; rfl

/-- Settles O32: the key is the first thing that `BlockAccept` tests, in every mode. -/
theorem blockCommandNeedsKey : Obligations.BlockCommandNeedsKey := by
  intro i s hw hi ⟨hb, he⟩ hk
  obtain ⟨mode, dir, len, hexec⟩ := isBlockAccept_of_isBlockCommand hw hi
  rw [hexec, guarded_of_ready _ _ _ hb he, blockAccept_noKey _ _ _ _ _ hk, raiseErr_of_clear _ _ _ he]
  rfl

/-- Settles O33: with a key, `BlockAccept` in CTR mode tests `CTR_OVF`. -/
theorem ctrCommandRefusedAfterOverflow : Obligations.CtrCommandRefusedAfterOverflow := by
  intro s i hi ⟨hb, he⟩ hk ho
  have hctr : IsBlockAccept i .ctr := by
    obtain ⟨dir, rfl⟩ | ⟨n, hn, rfl⟩ := hi
    · exact isBlockAccept_ctrBlk dir
    · exact isBlockAccept_ctrPart hn
  obtain ⟨dir, len, hexec⟩ := hctr
  rw [hexec, guarded_of_ready _ _ _ hb he, blockAccept_overflow _ _ _ _ hk ho, raiseErr_of_clear _ _ _ he]
  rfl

/-- Settles O34: the step is the error entry, which keeps a record that is there already. -/
theorem writeWhileBusyIsDiscarded : Obligations.WriteWhileBusyIsDiscarded := by
  intro s a v rest hb hp
  have hstep : step s = .next (raiseErr .busy v { s with pending := rest }) :=
    (step_of_pending s _ rest hp).trans (hostWrite_of_busy a v hb)
  rw [hstep]
  exact ⟨fun he => congrArg Host.Outcome.next (raiseErr_of_clear _ _ _ he),
    fun he => congrArg Host.Outcome.next (raiseErr_of_set _ _ _ he)⟩

/-- Settles O35: of the bytes that are not ignored `CLRERR` is the one that changes anything. -/
theorem faultStopIgnoresCommands : Obligations.FaultStopIgnoresCommands := by
  intro s v rest hb he hp _ hv
  rw [step_of_pending_cmd hb hp]
  exact execute_of_err (s := { s with pending := rest }) hb he hv

end Sys2Proof.Machine
end

section
/-! PROOFS of the reset and progress statements (70_reset_and_hazards.md R320, R336): the registers after a reset, and the
end of the operation in flight. `stepsLeft` is a measure: each step of a busy block lowers it by one. -/

namespace Sys2Proof.Machine

/-! ### Reset -/

/-- Settles O48: no register of the old state but the host's side is looked at, and the existential leaves `RK` open. -/
theorem resetFromAnyState : Obligations.ResetFromAnyState := by
  intro s rest hp
  exact ⟨_, _, step_of_pending s .reset rest hp⟩

/-! ### The measure, by phase -/

theorem stepsLeft_of_idle {s : State} (hp : s.phase = .idle) : stepsLeft s = 0 := by simp [stepsLeft, hp]

theorem stepsLeft_of_kx {s : State} (hp : s.phase = .kx) : stepsLeft s = nwOf s.klen - s.widx.val := by
  simp [stepsLeft, hp]

theorem stepsLeft_of_enc {s : State} (hp : s.phase = .enc) : stepsLeft s = (nrOf s.klen).val + 1 - s.rnd.val := by
  simp [stepsLeft, hp]

theorem stepsLeft_of_dec {s : State} (hp : s.phase = .dec) : stepsLeft s = s.rnd.val + 1 := by simp [stepsLeft, hp]

/-- The longest operation is the key expansion of the 256-bit variant (42_key_expansion.md R160). -/
theorem stepsLeft_le (s : State) : stepsLeft s ≤ 60 := by
  have hnw : nwOf s.klen ≤ 60 := nwOf_le _
  cases hp : s.phase with
  | idle => rw [stepsLeft_of_idle hp]; omega
  | kx => rw [stepsLeft_of_kx hp]; omega
  | enc => rw [stepsLeft_of_enc hp]; omega
  | dec => rw [stepsLeft_of_dec hp]; omega

/-- In a state of the invariant an operation in flight has a step left (10_state.md R40, items 2 and 3). -/
theorem Inv.stepsLeft_pos_iff {s : State} (h : Inv s) : 0 < stepsLeft s ↔ s.busy = true := by
  rw [busy_iff]
  cases hp : s.phase with
  | idle => simp [stepsLeft_of_idle hp]
  | kx =>
    obtain ⟨-, hw, -⟩ := h.kx hp
    simpa [stepsLeft_of_kx hp] using hw
  | enc =>
    obtain ⟨-, -, hr, -⟩ := h.engine (.inl hp)
    simpa [stepsLeft_of_enc hp, Nat.lt_succ_iff] using hr
  | dec => simp [stepsLeft_of_dec hp]

/-- Each step of a busy block takes one from the steps left (42_key_expansion.md R166, 43_round_engine.md R201, R203). -/
theorem BlockEffect.stepsLeft_succ {s t : State} (hb : BlockEffect s t) (hbusy : s.busy = true) :
    stepsLeft t + 1 = stepsLeft s := by
  cases hb with
  | idle hp => exact absurd hp ((busy_iff s).mp hbusy)
  | kx hp hw rk widx kvalid phase _ hwi _ hph =>
    rw [stepsLeft_of_kx hp]
    by_cases last : s.widx.val + 1 = nwOf s.klen
    · rw [if_pos last] at hph
      rw [stepsLeft_of_idle hph]
      omega
    · rw [if_neg last] at hph
      simp only [stepsLeft_of_kx, hph]
      omega
  | encMiddle hp hr r hr' =>
    simp only [stepsLeft_of_enc, hp]
    omega
  | encLast hp hr =>
    rw [stepsLeft_of_enc hp, stepsLeft_of_idle (finish_phase _ _), hr]
    omega
  | decMiddle hp _ r hr' =>
    simp only [stepsLeft_of_dec, hp]
    omega
  | decLast hp hr => rw [stepsLeft_of_dec hp, stepsLeft_of_idle (finish_phase _ _), hr]

/-! ### Runs to the end of the operation -/

/-- As long as there are steps left the block takes them, within the invariant. -/
theorem Inv.blockRun_stepsLeft {s : State} (h : Inv s) {n : Nat} (hn : n ≤ stepsLeft s) :
    ∃ t, blockRun n s = .next t ∧ Inv t ∧ stepsLeft t + n = stepsLeft s := by
  induction n with
  | zero => exact ⟨s, rfl, h, rfl⟩
  | succ n ih =>
    obtain ⟨t, hrun, ht, hleft⟩ := ih (by omega)
    obtain ⟨u, hstep⟩ := ht.blockStep_answers
    have hu : BlockEffect t u := blockStep_effect t u hstep
    have hone : stepsLeft u + 1 = stepsLeft t := hu.stepsLeft_succ (ht.stepsLeft_pos_iff.mp (by omega))
    exact ⟨u, (blockRun_succ_of_blockRun hrun).trans hstep, ht.block hu, by omega⟩

/-- Settles O53: after `n` steps the measure has fallen by `n`, and the block is busy as long as it is not zero. -/
theorem operationEndsAfterItsSteps : Obligations.OperationEndsAfterItsSteps := by
  intro s h
  refine ⟨?ends, fun n hn => ?busy, stepsLeft_le s⟩
  case ends =>
    obtain ⟨t, hrun, ht, hleft⟩ := h.blockRun_stepsLeft le_rfl
    refine ⟨t, hrun, Bool.eq_false_iff.mpr fun hbusy => ?_⟩
    have := ht.stepsLeft_pos_iff.mpr hbusy
    omega
  case busy =>
    obtain ⟨t, hrun, ht, hleft⟩ := h.blockRun_stepsLeft hn.le
    exact ⟨t, hrun, ht.stepsLeft_pos_iff.mp (by omega)⟩

end Sys2Proof.Machine
end
